-- ==== Sys2Proof/Word.lean ====
section
/-! DEFINITION. The widths of the tile-link block's data: bytes, 16-bit values and 32-bit operation words
(00_scope.md R9, 30_encoding.md R80). No value of the block is signed. -/

namespace Sys2Proof

/-- A byte on the wire or in a storage (R9). -/
abbrev Byte := BitVec 8

/-- A 16-bit value: a result word, a tile index, an image count, a pixel, a display coordinate. -/
abbrev HWord := BitVec 16

/-- An operation word (R80). -/
abbrev OpWord := BitVec 32

end Sys2Proof
end

