-- ==== Sys2Proof/Syntax.lean ====
section
/-! DEFINITION. What the agents of the block can say: the 18 instructions of spec/opcode_table.json, the agents
(00_scope.md R8), their ports (30_encoding.md R82) and the steps they take (60_exceptions.md R257, 30_encoding.md R90). -/

namespace Sys2Proof

/-- One constructor per row of spec/opcode_table.json: the 12 operation words of 30_encoding.md R81, then the wire
patterns of R85 (sent by the block) and R88 (received by it). A received pattern holds its bytes in arrival order. -/
inductive Instr where
  | rbPut (b : Byte)
  | rbPerr
  | rbGet
  | rbHasdata
  | rbIsempty
  | rbIsfull
  | rbSlots
  | frQc
  | frTile (idx : HWord)
  | frStat
  | frCount
  | frOrigin
  | getImageCount
  | getImage (idx : HWord)
  | ready
  | countResp (r0 r1 : Byte)
  | tileHdr (x y : Byte)
  | payloadPixel (lo hi : Byte)
deriving DecidableEq, Repr

/-- The agents that take steps (R8). -/
inductive Agent where
  | prod
  | cons
  | caller
  | fr
  | host
  | disp
deriving DecidableEq, Repr, Inhabited

/-- The ports that operation words are issued on, named by the high nibble of OPC (R81, R82). -/
inductive Port where
  | producer
  | consumer
  | status
  | control
deriving DecidableEq, Repr

/-- The kinds of a link error that the receive side reports (R39, R241). -/
inductive LinkKind where
  | parity
  | framing
  | overrun
deriving DecidableEq, Repr

/-- A token of the RX stream (R39). -/
inductive Token where
  | byte (b : Byte)
  | linkErr (kind : LinkKind)
deriving DecidableEq, Repr

/-- One step of one agent (R8, R257): an operation word issued by an agent, a framer step, a token that HOST
appends to RXQ, HOST making the TX sink ready or not, HOST dropping a sent byte silently, and DISP's answer
(true: Ok, false: Err). -/
inductive AgentStep where
  | issue (a : Agent) (w : OpWord)
  | framer
  | hostSend (t : Token)
  | hostSink (ready : Bool)
  | hostDrop
  | dispAnswer (ok : Bool)
deriving DecidableEq, Repr, Inhabited

end Sys2Proof
end

