-- ==== Sys2Proof/Config.lean ====
section
/-! DEFINITION. What a build of the block fixes (00_scope.md R6) and the values the spec leaves free (R10 `draw()`). -/

namespace Sys2Proof

/-- Where the framer reads bytes (R6 `RX_PATH`). -/
inductive RxPath where
  | direct
  | viaRb
deriving DecidableEq, Repr

/-- The OPEN parameters of R6. A record of any numbers: `Params.ok` says which of them a block can be built with. -/
structure Params where
  log2n  : Nat
  tileW  : Nat
  tileH  : Nat
  chunk  : Nat
  rxPath : RxPath
deriving DecidableEq, Repr

/-- Ring buffer depth N = 2^LOG2N (R6). -/
def Params.depth (c : Params) : Nat := 2 ^ c.log2n

/-- Index mask MASK = N − 1 (R6), as a cursor value. -/
def Params.mask (c : Params) : HWord := BitVec.ofNat 16 (c.depth - 1)

/-- Pixels per tile (R6). -/
def Params.npix (c : Params) : Nat := c.tileW * c.tileH

/-- Pixel bytes per tile (R6). -/
def Params.payload (c : Params) : Nat := 2 * c.npix

/-- Chunks per tile (R6). -/
def Params.nchunk (c : Params) : Nat := c.payload / c.chunk

/-- The ranges of R6. A configuration outside them is refused: the model has no machine for it. -/
def Params.ok (c : Params) : Bool :=
  decide (1 ≤ c.log2n ∧ c.log2n ≤ 16 ∧ 1 ≤ c.tileW ∧ c.tileW ≤ 256 ∧ 1 ≤ c.tileH ∧ c.tileH ≤ 256 ∧
    1 ≤ c.chunk ∧ c.chunk ≤ c.payload ∧ c.payload % c.chunk = 0)

/-- The block whose reset state is `State.reset`: the values of programs P1 and P3 of 95_test_vectors.md.
DESIGN CHOICE (log entry 2), unsafe for a claim about `State.reset` read as a claim about every block:
`State.resetFor` gives the reset state of every other block. -/
def Config.built : Params := ⟨2, 2, 2, 4, .direct⟩

/-- ESC, first byte of every command frame: fixed 0xFF (R6, C4). -/
def Config.esc : Byte := 0xFF#8

/-- CMD_COUNT, command code GetImageCount: fixed 0x01 (R6). -/
def Config.cmdCount : Byte := 0x01#8

/-- CMD_IMAGE, command code GetImage: fixed 0x02 (R6). -/
def Config.cmdImage : Byte := 0x02#8

/-- READY, the byte before each chunk: fixed 0xAA (R6). -/
def Config.readyByte : Byte := 0xAA#8

/-- An 8-bit `draw()` (R10): free, one value for each count of draws and each place that draws at that count
(log entry 5). -/
opaque Config.draw8 (draw place : Nat) : Byte

/-- A 16-bit `draw()` (R10): free, one value for each count of draws (log entry 5). -/
opaque Config.draw16 (draw : Nat) : HWord

/-- The agent step that is scheduled where none was given in advance (R8, R72, R256): free, one value for each turn
(log entry 3). -/
opaque Config.agentStep (turn : Nat) : AgentStep

end Sys2Proof
end

