-- ==== Sys2Proof/WellFormed.lean ====
section
/-! DEFINITION. Which instructions a build of the block has (30_encoding.md R84). Every operand is a bit vector of the
field's width, so the only check left is the one that RX_PATH decides. -/

namespace Sys2Proof

/-- RB.PERR is reserved when RX_PATH = DIRECT (R84). RB.GET when RX_PATH = VIA_RB is well-formed: there it is a port
violation, not a reserved word (R84). Every wire pattern is well-formed (R86 to R88). -/
def Instr.wf (rx : RxPath) : Instr → Bool
  | .rbPerr => decide (rx = .viaRb)
  | .rbPut _ => true
  | .rbGet => true
  | .rbHasdata => true
  | .rbIsempty => true
  | .rbIsfull => true
  | .rbSlots => true
  | .frQc => true
  | .frTile _ => true
  | .frStat => true
  | .frCount => true
  | .frOrigin => true
  | .getImageCount => true
  | .getImage _ => true
  | .ready => true
  | .countResp _ _ => true
  | .tileHdr _ _ => true
  | .payloadPixel _ _ => true

end Sys2Proof
end

