-- ==== Sys2Proof/Decode.lean ====
section
/-! DEFINITION. The two encodings of the block (30_encoding.md): operation words (R80 to R84, R91), and wire patterns
(R85 to R88). First the decoders, total on any word or bytes, rejecting by name, then the encoders, written from the
same tables. -/

namespace Sys2Proof

/-- Why a word or a byte sequence is no instruction: the four clauses of R84 that a word alone decides, and the three
ways bytes can fail to be a sequence of R85. -/
inductive Reject where
  | opcUnknown
  | rsvNonzero
  | putArgHigh
  | argNonzero
  | notFrameStart
  | cmdUnknown
  | shortFrame
deriving DecidableEq, Repr

/-- LE16 (R9, R190): `b0` comes first on the wire or in the buffer. -/
def le16 (b0 b1 : Byte) : HWord := b0.zeroExtend 16 ||| (b1.zeroExtend 16 <<< 8)

/-- Bits 7:0 of a 16-bit value. -/
def lowByte (v : HWord) : Byte := v.extractLsb' 0 8

/-- Bits 15:8 of a 16-bit value. -/
def highByte (v : HWord) : Byte := v.extractLsb' 8 8

/-- OPC, bits 31:24 (R80). -/
def opcField (w : OpWord) : Byte := w.extractLsb' 24 8

/-- RSV, bits 23:16 (R80). -/
def rsvField (w : OpWord) : Byte := w.extractLsb' 16 8

/-- ARG, bits 15:0 (R80). -/
def argField (w : OpWord) : HWord := w.extractLsb' 0 16

/-- An operation without an operand: its ARG must be 0 (R84). -/
def decodeNoArg (w : OpWord) (i : Instr) : Except Reject Instr :=
  if argField w = 0#16 then .ok i else .error .argNonzero

/-- RB.PUT: ARG[15:8] must be 0 (R84), the byte is ARG[7:0] (R83). -/
def decodePut (w : OpWord) : Except Reject Instr :=
  if highByte (argField w) = 0#8 then .ok (.rbPut (lowByte (argField w))) else .error .putArgHigh

/-- The opcode map of R81. -/
def decodeOpc (w : OpWord) : Except Reject Instr :=
  match (opcField w).toNat with
  | 0x10 => decodePut w
  | 0x11 => decodeNoArg w .rbPerr
  | 0x20 => decodeNoArg w .rbGet
  | 0x30 => decodeNoArg w .rbHasdata
  | 0x31 => decodeNoArg w .rbIsempty
  | 0x32 => decodeNoArg w .rbIsfull
  | 0x33 => decodeNoArg w .rbSlots
  | 0x40 => decodeNoArg w .frQc
  | 0x41 => .ok (.frTile (argField w))
  | 0x42 => decodeNoArg w .frStat
  | 0x43 => decodeNoArg w .frCount
  | 0x44 => decodeNoArg w .frOrigin
  | _ => .error .opcUnknown

/-- An operation word (R80 to R84), but for the clause of R84 about RB.PERR, which RX_PATH decides (`Instr.wf`). -/
def decodeWord (w : OpWord) : Except Reject Instr :=
  if rsvField w = 0#8 then decodeOpc w else .error .rsvNonzero

/-- A word is reserved (R84) when no operation has it, or when it is RB.PERR and RX_PATH = DIRECT. -/
def reservedWord (rx : RxPath) (w : OpWord) : Bool :=
  match decodeWord w with
  | .ok i => !i.wf rx
  | .error _ => true

/-- The arguments of a command frame: the command code decides how many there are (R86). -/
def decodeCommand (code : Byte) (rest : List Byte) : Except Reject (Instr × List Byte) :=
  if code = Config.cmdCount then .ok (.getImageCount, rest)
  else if code = Config.cmdImage then
    match rest with
    | lo :: hi :: rest' => .ok (.getImage (le16 lo hi), rest')
    | _ => .error .shortFrame
  else .error .cmdUnknown

/-- The first of R85's byte sequences in a sequence of sent bytes, with the rest: a frame is found by ESC, then its
command code (R86). -/
def decodeTx : List Byte → Except Reject (Instr × List Byte)
  | [] => .error .shortFrame
  | b :: rest =>
    if b = Config.readyByte then .ok (.ready, rest)
    else if b = Config.esc then
      match rest with
      | code :: rest' => decodeCommand code rest'
      | [] => .error .shortFrame
    else .error .notFrameStart

/-- The positions at which a response's bytes are read (R88): the count, the tile header, a pixel of the payload. -/
inductive RxPos where
  | countPos
  | headerPos
  | pixelPos
deriving DecidableEq, Repr

/-- A received pattern is decoded by its position alone: there is no marker, and every byte value may appear
anywhere (R88, R89). -/
def decodeRx (p : RxPos) (b0 b1 : Byte) : Instr :=
  match p with
  | .countPos => .countResp b0 b1
  | .headerPos => .tileHdr b0 b1
  | .pixelPos => .payloadPixel b0 b1

/-- The `n` bytes of a wire pattern that spec/opcode_table.json writes as one number, first byte on the wire
leftmost. -/
def wireOfNat : Nat → Nat → List Byte
  | 0, _ => []
  | n + 1, w => BitVec.ofNat 8 (w / 256 ^ n) :: wireOfNat n w

/-- The instruction whose bits are `w`, numbered as spec/opcode_table.json numbers them. 32 bits are an operation word
or the GetImage frame, which no operation word equals, since no OPC is 0xFF. The three received patterns have no fixed
bits and are told apart by position alone (R88): 16 bits that are not the GetImageCount frame are read as the first of
them, COUNT_RESP (log entry 12). -/
def decodeTableWord (nbits w : Nat) : Option Instr :=
  match nbits with
  | 32 =>
    match decodeWord (BitVec.ofNat 32 w) with
    | .ok i => some i
    | .error _ =>
      match decodeTx (wireOfNat 4 w) with
      | .ok (i, []) => some i
      | _ => none
  | 16 =>
    match decodeTx (wireOfNat 2 w) with
    | .ok (i, []) => some i
    | _ => some (decodeRx .countPos (BitVec.ofNat 8 (w / 256)) (BitVec.ofNat 8 w))
  | 8 =>
    match decodeTx (wireOfNat 1 w) with
    | .ok (i, []) => some i
    | _ => none
  | _ => none

/-- OPC in 31:24, RSV = 0 in 23:16, ARG in 15:0 (R80). -/
def opWord (opc : Byte) (arg : HWord) : OpWord := opc ++ 0#8 ++ arg

/-- The operation word of an operation (R81, R91); a wire pattern has none. -/
def encodeWord : Instr → Option OpWord
  | .rbPut b => some (opWord 0x10#8 (b.zeroExtend 16))
  | .rbPerr => some (opWord 0x11#8 0#16)
  | .rbGet => some (opWord 0x20#8 0#16)
  | .rbHasdata => some (opWord 0x30#8 0#16)
  | .rbIsempty => some (opWord 0x31#8 0#16)
  | .rbIsfull => some (opWord 0x32#8 0#16)
  | .rbSlots => some (opWord 0x33#8 0#16)
  | .frQc => some (opWord 0x40#8 0#16)
  | .frTile idx => some (opWord 0x41#8 idx)
  | .frStat => some (opWord 0x42#8 0#16)
  | .frCount => some (opWord 0x43#8 0#16)
  | .frOrigin => some (opWord 0x44#8 0#16)
  | .getImageCount => none
  | .getImage _ => none
  | .ready => none
  | .countResp _ _ => none
  | .tileHdr _ _ => none
  | .payloadPixel _ _ => none

/-- The GetImageCount frame (R85, R145). -/
def frameCount : List Byte := [Config.esc, Config.cmdCount]

/-- The GetImage frame, its argument bytes verbatim (R85, R87, R146). -/
def frameImage (idx : HWord) : List Byte := [Config.esc, Config.cmdImage, lowByte idx, highByte idx]

/-- The bytes of a wire pattern in the order they are sent or arrive (R85, R88); an operation word is no wire
pattern. -/
def wireBytes : Instr → List Byte
  | .getImageCount => frameCount
  | .getImage idx => frameImage idx
  | .ready => [Config.readyByte]
  | .countResp r0 r1 => [r0, r1]
  | .tileHdr x y => [x, y]
  | .payloadPixel lo hi => [lo, hi]
  | .rbPut _ => []
  | .rbPerr => []
  | .rbGet => []
  | .rbHasdata => []
  | .rbIsempty => []
  | .rbIsfull => []
  | .rbSlots => []
  | .frQc => []
  | .frTile _ => []
  | .frStat => []
  | .frCount => []
  | .frOrigin => []

/-- Bytes as one number, the first byte leftmost. -/
def natOfWire (bs : List Byte) : Nat := bs.foldl (fun acc b => acc * 256 + b.toNat) 0

/-- Width and bits of an instruction as spec/opcode_table.json numbers them. -/
def encode (i : Instr) : Nat × Nat :=
  match encodeWord i with
  | some w => (32, w.toNat)
  | none => (8 * (wireBytes i).length, natOfWire (wireBytes i))

/-- The position at which a received pattern is read; the other instructions are not received. -/
def rxPosOf : Instr → Option RxPos
  | .countResp _ _ => some .countPos
  | .tileHdr _ _ => some .headerPos
  | .payloadPixel _ _ => some .pixelPos
  | .getImageCount => none
  | .getImage _ => none
  | .ready => none
  | .rbPut _ => none
  | .rbPerr => none
  | .rbGet => none
  | .rbHasdata => none
  | .rbIsempty => none
  | .rbIsfull => none
  | .rbSlots => none
  | .frQc => none
  | .frTile _ => none
  | .frStat => none
  | .frCount => none
  | .frOrigin => none

end Sys2Proof
end

