-- ==== Sys2Proof/Machine/State.lean ====
section
/-! DEFINITION. The state of the block as plain data (10_state.md R20 to R41), the reasons a step can stop, and the
state after reset. -/

namespace Sys2Proof.Machine

/-- A storage: (index, byte) pairs, indexes strictly rising. An index that is not listed is `unwritten` (R10, R22,
R36): it holds no value (log entry 20). -/
abbrev Memory := List Host.Cell

/-- A 16-bit register that is written one byte at a time; a byte that holds no value is `unwritten` (R34, log
entry 18). -/
structure PartWord where
  lo : Option Byte
  hi : Option Byte
deriving DecidableEq, Repr

/-- The framer's sequence state (R33, C11). -/
inductive Fsm where
  | idle
  | qcTx (k : Fin 2)
  | qcRx (k : Fin 2)
  | rtTx (k : Fin 4)
  | rtHdr (k : Fin 2)
  | rtRdy (m : Nat)
  | rtPay (m j : Nat)
  | rtDisp
  | rtWait
deriving DecidableEq, Repr

/-- The outcome of the last request, codes 0 to 3 in this order (R30, R242). -/
inductive OpResult where
  | none
  | ok
  | transferAborted
  | displayWriteError
deriving DecidableEq, Repr

/-- Which request was accepted last: 0 QueryCount, 1 RequestTile (R31). -/
inductive LastOp where
  | queryCount
  | requestTile
deriving DecidableEq, Repr

/-- The display's answer to a set_block (R215). -/
inductive Answer where
  | pending
  | ok
  | err
deriving DecidableEq, Repr

/-- One set_block call with its arguments and answer (R39, R215). -/
structure BlockWrite where
  x : HWord
  y : HWord
  w : HWord
  h : HWord
  px : List HWord
  answer : Answer
deriving DecidableEq, Repr

/-- The fault codes 1 to 6, in this order (R244). -/
inductive FaultCode where
  | rbPutFull
  | rbGetEmpty
  | frBusy
  | reserved
  | port
  | undefRead
deriving DecidableEq, Repr

/-- The set of fault codes (R38): for each code, whether it is in the set. -/
structure FaultSet where
  rbPutFull : Bool
  rbGetEmpty : Bool
  frBusy : Bool
  reserved : Bool
  port : Bool
  undefRead : Bool
deriving DecidableEq, Repr

/-- A result word handed back to the agent that issued the operation (R80). -/
structure Response where
  agent : Agent
  res : HWord
deriving DecidableEq, Repr

/-- The block's state (R20), with the environment's part that the model records (R39, R141). `cfg`, `issuer`,
`agenda`, `turn` and `draws` are the model's own. -/
structure State where
  /-- The parameters of R6: fixed when the block is built, carried here unchanged (log entry 1). -/
  cfg : Params
  /-- RBMem (R22). -/
  rbMem : Memory
  /-- The read cursor (R23), in 16 bits (log entry 14). -/
  rd : HWord
  /-- The write cursor (R24), in 16 bits (log entry 14). -/
  wr : HWord
  /-- link_err (R25). -/
  linkErr : Bool
  /-- fsm (R33). -/
  fsm : Fsm
  /-- result (R30). -/
  result : OpResult
  /-- last_op (R31). -/
  lastOp : LastOp
  /-- idx (R32); absent: unwritten. -/
  idx : Option HWord
  /-- count (R34). -/
  count : PartWord
  /-- count_valid (R34). -/
  countValid : Bool
  /-- ox (R35); absent: unwritten. -/
  ox : Option Byte
  /-- oy (R35); absent: unwritten. -/
  oy : Option Byte
  /-- origin_valid (R35). -/
  originValid : Bool
  /-- TB (R36). -/
  tb : Memory
  /-- The sticky fault set (R38). -/
  faults : FaultSet
  /-- RXQ (R39): the tokens the host has sent and the framer has not taken, oldest first. -/
  rxq : List Token
  /-- TXLOG (R39): the bytes the framer has emitted, oldest first. -/
  txlog : List Byte
  /-- DISPLOG (R39): the set_block calls, oldest first. -/
  displog : List BlockWrite
  /-- Whether the TX sink is ready (R141), set by HOST (R257) (log entry 8). -/
  txReady : Bool
  /-- The result words handed back, oldest first (R80, R287) (log entry 10). -/
  reslog : List Response
  /-- The agent whose operation word is being run (R82) (log entry 9). -/
  issuer : Agent
  /-- The agent steps given in advance, next first (log entry 3). -/
  agenda : List AgentStep
  /-- Where the free schedule stands (log entry 3). -/
  turn : Nat
  /-- How many draws have been made (R10, log entry 5). -/
  draws : Nat
deriving DecidableEq, Repr

/-- Why the machine stops with a fault. No rule of the spec stops the block (R243: a fault code does not); these two
are accesses to storage that does not exist (R60), and no state that meets `Inv` reaches one. -/
inductive Fault where
  /-- RB.PUT, RB.GET or the framer's VIA_RB receive at a cursor above MASK: safe (log entry 14). -/
  | noSlot
  /-- The framer's payload receive at an offset of PAYLOAD or more: safe (log entry 15). -/
  | noTileByte
deriving DecidableEq, Repr

/-- Why the model has no meaning for a step. -/
inductive Refusal where
  /-- An instruction without a meaning, by its mnemonic; raised by no arm of exec: safe. -/
  | notModelled (mnemonic : String)
  /-- Raised by `step` where `cfg` is outside the ranges of R6, whose configurations are refused: safe (log entry 16). -/
  | badConfig
  /-- Raised by a step of CONS where RX_PATH = VIA_RB: that agent does not exist and a configuration with it is
  refused (R8, R245): safe (log entry 16). -/
  | noSuchAgent
deriving DecidableEq, Repr

/-- What a step or a meaning answers. -/
abbrev Out := Host.Outcome State Fault Refusal

/-- The empty fault set. -/
def FaultSet.empty : FaultSet := ⟨false, false, false, false, false, false⟩

/-- The reset state of the block built with parameters `c` (R41, R270): the spec's values; the environment fields it
gives no value (`txReady`, `reslog`) and the model's own as log entries 3, 5, 8, 9 and 10 name them. -/
def State.resetFor (c : Params) : State where
  cfg := c
  rbMem := []
  rd := 0
  wr := 0
  linkErr := false
  fsm := .idle
  result := .none
  lastOp := .queryCount
  idx := none
  count := ⟨none, none⟩
  countValid := false
  ox := none
  oy := none
  originValid := false
  tb := []
  faults := FaultSet.empty
  rxq := []
  txlog := []
  displog := []
  txReady := true
  reslog := []
  issuer := .prod
  agenda := []
  turn := 0
  draws := 0

/-- The machine right after reset (R270), for the block `Config.built` (log entry 2). -/
def State.reset : State := State.resetFor Config.built

end Sys2Proof.Machine
end

