-- ==== Sys2Proof/Machine/Ops.lean ====
section
/-! DEFINITION. The named operations over the block's storages and registers: storage access, faults, result words,
draws, the cursors, the transport primitives, and the end of a request. -/

namespace Sys2Proof.Machine

/-! ### Storage -/

/-- The canonical form of a storage: indexes strictly rising. No entry can equal what an unlisted index reads as,
since that is no value (log entry 20). -/
def Memory.wf : Memory → Bool
  | [] => true
  | [_] => true
  | (a, _) :: (a', b') :: rest => decide (a < a') && Memory.wf ((a', b') :: rest)

/-- Every listed index is below `size`. -/
def Memory.within (size : Nat) (m : Memory) : Bool := m.all fun cell => decide (cell.1 < size)

/-- The byte at an index, or none where it is `unwritten` (R10). -/
def Memory.read : Memory → Nat → Option Byte
  | [], _ => none
  | (a', b') :: rest, a => if a = a' then some b' else Memory.read rest a

/-- Write one byte (R65: no access is wider). -/
def Memory.write : Memory → Nat → Byte → Memory
  | [], a, b => [(a, b)]
  | (a', b') :: rest, a, b =>
    if a < a' then (a, b) :: (a', b') :: rest
    else if a = a' then (a, b) :: rest
    else (a', b') :: Memory.write rest a b

/-! ### Faults, result words and draws -/

/-- Add a code to the set; no code leaves it (R38, R243). -/
def FaultSet.add (f : FaultSet) : FaultCode → FaultSet
  | .rbPutFull => { f with rbPutFull := true }
  | .rbGetEmpty => { f with rbGetEmpty := true }
  | .frBusy => { f with frBusy := true }
  | .reserved => { f with reserved := true }
  | .port => { f with port := true }
  | .undefRead => { f with undefRead := true }

/-- Whether a code is in the set. -/
def FaultSet.has (f : FaultSet) : FaultCode → Bool
  | .rbPutFull => f.rbPutFull
  | .rbGetEmpty => f.rbGetEmpty
  | .frBusy => f.frBusy
  | .reserved => f.reserved
  | .port => f.port
  | .undefRead => f.undefRead

/-- `raise Fault(F)` (R10, R243). -/
def raiseFault (f : FaultCode) (s : State) : State := { s with faults := s.faults.add f }

/-- `return v` (R10, R80): hand RES back to the agent that issued the operation. -/
def answer (res : HWord) (s : State) : State := { s with reslog := s.reslog ++ [⟨s.issuer, res⟩] }

/-- A word that fails its checks, or a request that is ignored: the code is raised, nothing else changes, RES = 0
(R82, R84, R108, R152, R244). -/
def rejectWord (f : FaultCode) (s : State) : State := answer 0#16 (raiseFault f s)

/-- One more draw has been made (R10). -/
def countDraw (s : State) : State := { s with draws := s.draws + 1 }

/-! ### Ports -/

/-- Who may issue the operations of a port (R82). -/
def ownsPort (rx : RxPath) (a : Agent) : Port → Bool
  | .producer => decide (a = .prod)
  | .consumer => decide (a = .cons ∧ rx = .direct)
  | .status => true
  | .control => decide (a = .caller)

/-- The port check, before any rule of the operation runs (R82, R108, R246). -/
def guardPort (p : Port) (s : State) (body : State → Out) : Out :=
  if ownsPort s.cfg.rxPath s.issuer p then body s else .next (rejectWord .port s)

/-! ### Cursors -/

/-- `c <- (c + 1) & MASK` (R116). -/
def advance (c : Params) (cur : HWord) : HWord := (cur + 1#16) &&& c.mask

/-- A slot exists at every index 0 .. MASK and nowhere else (R60). -/
def slotExists (c : Params) (cur : HWord) : Bool := decide (cur ≤ c.mask)

/-- Store a byte at `wr` and advance `wr` (R101). -/
def ringStore (b : Byte) (s : State) : State :=
  { s with rbMem := s.rbMem.write s.wr.toNat b, wr := advance s.cfg s.wr }

/-- Advance `rd` (R103, R143). -/
def ringDrop (s : State) : State := { s with rd := advance s.cfg s.rd }

/-- The byte at `rd` as a read hands it out; an `unwritten` slot holds any value (93 U3), so it is drawn. -/
def ringHead (s : State) : Byte × State :=
  match s.rbMem.read s.rd.toNat with
  | some b => (b, s)
  | none => (Config.draw8 s.draws 0, countDraw s)

/-! ### Transport (R141 to R144) -/

/-- `tx_send(b)` (R141), going on to `nxt`: it holds while the sink is not ready. -/
def txSend (b : Byte) (nxt : Fsm) (s : State) : State :=
  if s.txReady then { s with txlog := s.txlog ++ [b], fsm := nxt } else s

/-- What `rx_take()` comes back with (R10, R142, R143): nothing yet, a byte, a link error of a kind that may be
UNKNOWN (none), or a slot that does not exist. -/
inductive Taken where
  | hold
  | byte (b : Byte) (s : State)
  | linkErr (kind : Option LinkKind) (s : State)
  | stop (f : Fault)
deriving DecidableEq, Repr

/-- `rx_take()` when RX_PATH = DIRECT (R142): the head token. -/
def rxTakeDirect (s : State) : Taken :=
  match s.rxq with
  | [] => .hold
  | .byte b :: rest => .byte b { s with rxq := rest }
  | .linkErr k :: rest => .linkErr (some k) { s with rxq := rest }

/-- `rx_take()` when RX_PATH = VIA_RB (R143): a pending link error first, then the oldest buffered byte. -/
def rxTakeViaRb (s : State) : Taken :=
  if s.linkErr then .linkErr none { s with linkErr := false }
  else if s.rd = s.wr then .hold
  else if slotExists s.cfg s.rd then
    .byte (ringHead s).1 (ringDrop (ringHead s).2)
  else .stop .noSlot

/-- `rx_take()` (R142, R143). -/
def rxTake (s : State) : Taken :=
  match s.cfg.rxPath with
  | .direct => rxTakeDirect s
  | .viaRb => rxTakeViaRb s

/-! ### The end of a request -/

/-- `finish(r)` (R150). -/
def finish (r : OpResult) (s : State) : State :=
  { s with
    result := r
    countValid := s.countValid || decide (s.lastOp = .queryCount ∧ r = .ok)
    originValid := s.originValid || decide (s.lastOp = .requestTile ∧ (r = .ok ∨ r = .displayWriteError))
    fsm := .idle }

/-- What an abort marks `unwritten` (R151): the count of a QueryCount, the origin and the whole tile buffer of a
RequestTile. -/
def discard (s : State) : State :=
  { s with
    count := if s.lastOp = .queryCount then ⟨none, none⟩ else s.count
    ox := if s.lastOp = .requestTile then none else s.ox
    oy := if s.lastOp = .requestTile then none else s.oy
    tb := if s.lastOp = .requestTile then [] else s.tb }

/-- `abort()` (R151): the block's one abnormal entry (R247). Nothing is saved and nothing returns from it (R248). -/
def abort (s : State) : State := finish .transferAborted (discard s)

/-! ### Starting a request -/

/-- What FR.QC does when no request is in flight (R152). -/
def acceptQueryCount (s : State) : State :=
  { s with result := .none, lastOp := .queryCount, countValid := false, originValid := false, fsm := .qcTx 0 }

/-- What FR.TILE does when no request is in flight (R153). -/
def acceptRequestTile (i : HWord) (s : State) : State :=
  { s with idx := some i, result := .none, lastOp := .requestTile, countValid := false, originValid := false,
           fsm := .rtTx 0 }

end Sys2Proof.Machine
end

