-- ==== Sys2Proof/Machine/Flags.lean ====
section
/-! DEFINITION. The derived values of the block, recomputed whenever they are read (10_state.md R26, R29, R37). -/

namespace Sys2Proof.Machine

/-- Bytes buffered, (wr − rd) mod N (R26). -/
def ringCount (s : State) : HWord := (s.wr - s.rd) &&& s.cfg.mask

/-- EMPTY (R26). -/
def isEmpty (s : State) : Bool := decide (s.rd = s.wr)

/-- HAS_DATA (R26). -/
def hasData (s : State) : Bool := decide (s.rd ≠ s.wr)

/-- FULL (R26). -/
def isFull (s : State) : Bool := decide (s.rd = (s.wr + 1#16) &&& s.cfg.mask)

/-- SLOTS = MASK − ((wr − rd) & MASK) (R26, R107, C1). -/
def slots (s : State) : HWord := s.cfg.mask - ((s.wr - s.rd) &&& s.cfg.mask)

/-- BUSY (R29). -/
def busy (s : State) : Bool := decide (s.fsm ≠ .idle)

/-- A 1-bit value as a 16-bit result word. -/
def flagWord (b : Bool) : HWord := if b then 1#16 else 0#16

/-- The 2-bit code of a result (R30). -/
def OpResult.code : OpResult → BitVec 2
  | .none => 0
  | .ok => 1
  | .transferAborted => 2
  | .displayWriteError => 3

/-- last_op as a bit (R31). -/
def LastOp.bit : LastOp → Bool
  | .queryCount => false
  | .requestTile => true

/-- STAT = zext_16({origin_valid, count_valid, last_op, result[1:0], BUSY}) (R37). -/
def statWord (s : State) : HWord :=
  (BitVec.ofBool s.originValid ++ BitVec.ofBool s.countValid ++ BitVec.ofBool s.lastOp.bit ++ s.result.code ++
    BitVec.ofBool (busy s)).zeroExtend 16

/-- The number of a fault code (R244). -/
def FaultCode.number : FaultCode → Nat
  | .rbPutFull => 1
  | .rbGetEmpty => 2
  | .frBusy => 3
  | .reserved => 4
  | .port => 5
  | .undefRead => 6

end Sys2Proof.Machine
end

