-- ==== Sys2Proof/Machine/Operands.lean ====
section
/-! DEFINITION. The values the framer's steps and the result reads take from registers, and the received byte's place in
its pattern. A register byte that is `unwritten` holds any value (R10), so it is drawn; no run reaches such a read but
through a fault (93 U3, U4, log entry 6). -/

namespace Sys2Proof.Machine

/-- The tile index the frame encoder reads (R32, R146). -/
def indexOperand (s : State) : HWord × State :=
  match s.idx with
  | some i => (i, s)
  | none => (Config.draw16 s.draws, countDraw s)

/-- {hi, lo}: a 16-bit value from two bytes (R9). -/
def pairOperand (lo hi : Option Byte) (s : State) : HWord × State :=
  match lo, hi with
  | some l, some h => (le16 l h, s)
  | some l, none => (le16 l (Config.draw8 s.draws 1), countDraw s)
  | none, some h => (le16 (Config.draw8 s.draws 0) h, countDraw s)
  | none, none => (le16 (Config.draw8 s.draws 0) (Config.draw8 s.draws 1), countDraw s)

/-- The instruction a received byte belongs to, by the framer's position (R88). The pattern's other byte is no part of
this step and stands as 0: the meaning at this position does not read it (log entry 11). -/
def receivedPattern (c : Params) (f : Fsm) (b : Byte) : Option Instr :=
  match f with
  | .qcRx 0 => some (decodeRx .countPos b 0#8)
  | .qcRx 1 => some (decodeRx .countPos 0#8 b)
  | .rtHdr 0 => some (decodeRx .headerPos b 0#8)
  | .rtHdr 1 => some (decodeRx .headerPos 0#8 b)
  | .rtPay m j =>
    if (m * c.chunk + j) % 2 = 0 then some (decodeRx .pixelPos b 0#8) else some (decodeRx .pixelPos 0#8 b)
  | .idle => none
  | .qcTx _ => none
  | .rtTx _ => none
  | .rtRdy _ => none
  | .rtDisp => none
  | .rtWait => none

end Sys2Proof.Machine
end

