-- ==== Sys2Proof/Machine/Framer.lean ====
section
/-! DEFINITION. The five control operations (41_framer.md R152, R153, R156 to R158) and the wire patterns (R145 to R149,
R154, R155). A wire pattern's meaning is ONE framer step: the byte of the pattern at which `fsm` stands, sent, or received
and stored; where `fsm` does not stand in the pattern the framer has no such step, and nothing changes (log entries 7
and 11). The receive itself (R142, R143) and the abort (R151) stand before a received byte's meaning, in the framer's
step of Agents. -/

namespace Sys2Proof.Machine

/-- FR.QC (R152). -/
def execFrQc (s : State) : Out :=
  guardPort .control s fun t =>
    if busy t then .next (rejectWord .frBusy t) else .next (answer 0#16 (acceptQueryCount t))

/-- FR.TILE (R153). -/
def execFrTile (i : HWord) (s : State) : Out :=
  guardPort .control s fun t =>
    if busy t then .next (rejectWord .frBusy t) else .next (answer 0#16 (acceptRequestTile i t))

/-- FR.STAT (R156). -/
def execFrStat (s : State) : Out := guardPort .control s fun t => .next (answer (statWord t) t)

/-- A result read whose valid bit is 0: F_UNDEF_READ, and RES is a draw (R157, R158). -/
def undefinedRead (s : State) : State :=
  answer (Config.draw16 s.draws) (countDraw (raiseFault .undefRead s))

/-- FR.COUNT (R157). -/
def execFrCount (s : State) : Out :=
  guardPort .control s fun t =>
    if t.countValid then
      .next (answer (pairOperand t.count.lo t.count.hi t).1 (pairOperand t.count.lo t.count.hi t).2)
    else .next (undefinedRead t)

/-- FR.ORIGIN (R158): {oy, ox}. -/
def execFrOrigin (s : State) : Out :=
  guardPort .control s fun t =>
    if t.originValid then .next (answer (pairOperand t.ox t.oy t).1 (pairOperand t.ox t.oy t).2)
    else .next (undefinedRead t)

/-- GETIMAGECOUNT: the steps QC_TX(0) and QC_TX(1) (R145, R154). -/
def execGetImageCount (s : State) : Out :=
  match s.fsm with
  | .qcTx 0 => .next (txSend Config.esc (.qcTx 1) s)
  | .qcTx 1 => .next (txSend Config.cmdCount (.qcRx 0) s)
  | _ => .next s

/-- GETIMAGE: the steps RT_TX(0) to RT_TX(3) (R146, R155); the index bytes go out verbatim (R87). -/
def execGetImage (i : HWord) (s : State) : Out :=
  match s.fsm with
  | .rtTx 0 => .next (txSend Config.esc (.rtTx 1) s)
  | .rtTx 1 => .next (txSend Config.cmdImage (.rtTx 2) s)
  | .rtTx 2 => .next (txSend (lowByte i) (.rtTx 3) s)
  | .rtTx 3 => .next (txSend (highByte i) (.rtHdr 0) s)
  | _ => .next s

/-- READY: the step RT_RDY(m) (R155). -/
def execReady (s : State) : Out :=
  match s.fsm with
  | .rtRdy m => .next (txSend Config.readyByte (.rtPay m 0) s)
  | _ => .next s

/-- COUNT_RESP: the steps QC_RX(0) and QC_RX(1), a byte having been taken (R147, R154). -/
def execCountResp (r0 r1 : Byte) (s : State) : Out :=
  match s.fsm with
  | .qcRx 0 => .next { s with count := { s.count with lo := some r0 }, fsm := .qcRx 1 }
  | .qcRx 1 => .next (finish .ok { s with count := { s.count with hi := some r1 } })
  | _ => .next s

/-- TILE_HDR: the steps RT_HDR(0) and RT_HDR(1), a byte having been taken (R148, R155). -/
def execTileHdr (x y : Byte) (s : State) : Out :=
  match s.fsm with
  | .rtHdr 0 => .next { s with ox := some x, fsm := .rtHdr 1 }
  | .rtHdr 1 => .next { s with oy := some y, fsm := .rtRdy 0 }
  | _ => .next s

/-- Where the framer goes after payload byte j of chunk m (R155). -/
def afterPayload (c : Params) (m j : Nat) : Fsm :=
  if j + 1 < c.chunk then .rtPay m (j + 1)
  else if m + 1 < c.nchunk then .rtRdy (m + 1)
  else .rtDisp

/-- PAYLOAD_PIXEL: the step RT_PAY(m, j), a byte having been taken (R149, R155): payload byte p = m × CHUNK + j is byte
p mod 2 of its pixel (R88) and goes to TB[p]. -/
def execPayloadPixel (lo hi : Byte) (s : State) : Out :=
  match s.fsm with
  | .rtPay m j =>
    if m * s.cfg.chunk + j < s.cfg.payload then
      .next { s with
        tb := s.tb.write (m * s.cfg.chunk + j) (if (m * s.cfg.chunk + j) % 2 = 0 then lo else hi)
        fsm := afterPayload s.cfg m j }
    else .fault .noTileByte
  | _ => .next s

end Sys2Proof.Machine
end

