-- ==== Sys2Proof/Machine/Ring.lean ====
section
/-! DEFINITION. The seven ring buffer operations (40_ring_buffer.md R101 to R108). -/

namespace Sys2Proof.Machine

/-- RB.PUT's datapath (R101): a put while FULL raises F_RB_PUT_FULL and is still performed. -/
def putByte (b : Byte) (s : State) : Out :=
  if slotExists s.cfg s.wr then
    .next (answer 0#16 (ringStore b (if isFull s then raiseFault .rbPutFull s else s)))
  else .fault .noSlot

/-- RB.GET's datapath (R103): a get while EMPTY raises F_RB_GET_EMPTY, draws the byte and still advances `rd`. -/
def getByte (s : State) : Out :=
  if isEmpty s then
    .next (answer ((Config.draw8 s.draws 0).zeroExtend 16) (ringDrop (countDraw (raiseFault .rbGetEmpty s))))
  else if slotExists s.cfg s.rd then
    .next (answer ((ringHead s).1.zeroExtend 16) (ringDrop (ringHead s).2))
  else .fault .noSlot

/-- RB.PUT (R101). -/
def execRbPut (b : Byte) (s : State) : Out := guardPort .producer s (putByte b)

/-- RB.PERR (R102): reserved when RX_PATH = DIRECT, and that check comes before the port check (R84, R246). -/
def execRbPerr (s : State) : Out :=
  match s.cfg.rxPath with
  | .direct => .next (rejectWord .reserved s)
  | .viaRb => guardPort .producer s fun t => .next (answer 0#16 { t with linkErr := true })

/-- RB.GET (R103). When RX_PATH = VIA_RB no agent owns the consumer port, so it raises F_PORT (R82, R84). -/
def execRbGet (s : State) : Out := guardPort .consumer s getByte

/-- RB.HASDATA (R104). -/
def execRbHasdata (s : State) : Out := guardPort .status s fun t => .next (answer (flagWord (hasData t)) t)

/-- RB.ISEMPTY (R105). -/
def execRbIsempty (s : State) : Out := guardPort .status s fun t => .next (answer (flagWord (isEmpty t)) t)

/-- RB.ISFULL (R106). -/
def execRbIsfull (s : State) : Out := guardPort .status s fun t => .next (answer (flagWord (isFull t)) t)

/-- RB.SLOTS (R107). -/
def execRbSlots (s : State) : Out := guardPort .status s fun t => .next (answer (slots t) t)

end Sys2Proof.Machine
end

