-- ==== Sys2Proof/Machine/Dispatch.lean ====
section
/-! DEFINITION. exec: one arm per instruction, each a direct call of its meaning. -/

namespace Sys2Proof.Machine

def exec (i : Instr) (s : State) : Host.Outcome State Fault Refusal :=
  match i with
  | .rbPut b => Sys2Proof.Machine.execRbPut b s
  | .rbPerr => Sys2Proof.Machine.execRbPerr s
  | .rbGet => Sys2Proof.Machine.execRbGet s
  | .rbHasdata => Sys2Proof.Machine.execRbHasdata s
  | .rbIsempty => Sys2Proof.Machine.execRbIsempty s
  | .rbIsfull => Sys2Proof.Machine.execRbIsfull s
  | .rbSlots => Sys2Proof.Machine.execRbSlots s
  | .frQc => Sys2Proof.Machine.execFrQc s
  | .frTile idx => Sys2Proof.Machine.execFrTile idx s
  | .frStat => Sys2Proof.Machine.execFrStat s
  | .frCount => Sys2Proof.Machine.execFrCount s
  | .frOrigin => Sys2Proof.Machine.execFrOrigin s
  | .getImageCount => Sys2Proof.Machine.execGetImageCount s
  | .getImage idx => Sys2Proof.Machine.execGetImage idx s
  | .ready => Sys2Proof.Machine.execReady s
  | .countResp r0 r1 => Sys2Proof.Machine.execCountResp r0 r1 s
  | .tileHdr x y => Sys2Proof.Machine.execTileHdr x y s
  | .payloadPixel lo hi => Sys2Proof.Machine.execPayloadPixel lo hi s

end Sys2Proof.Machine
end

