-- ==== Sys2Proof/Machine/Pixel.lean ====
section
/-! DEFINITION. The pixel converter, unit PX (42_pixel_converter.md R190 to R195). LE16 itself is `le16` of Decode. -/

namespace Sys2Proof.Machine

/-- The native pixel is the 16-bit word itself (R191). -/
def nativePixel (px : HWord) : HWord := px

/-- Pixel i of a payload whose byte at offset p is `byteAt p` (R193). -/
def pixelAt (byteAt : Nat → Byte) (i : Nat) : HWord := nativePixel (le16 (byteAt (2 * i)) (byteAt (2 * i + 1)))

/-- The pixel sequence of a payload (R193). -/
def pixelSeq (npix : Nat) (byteAt : Nat → Byte) : List HWord := (List.range npix).map (pixelAt byteAt)

/-- The two bytes a pixel is sent as, first byte first (R195). -/
def pixelBytes (px : HWord) : Byte × Byte := (lowByte px, highByte px)

/-- Red, px[15:11] (R192). PRESUMED: the spec takes the position from general knowledge (log entry 19). -/
def pixelRed (px : HWord) : BitVec 5 := px.extractLsb' 11 5

/-- Green, px[10:5] (R192). PRESUMED: the spec takes the position from general knowledge (log entry 19). -/
def pixelGreen (px : HWord) : BitVec 6 := px.extractLsb' 5 6

/-- Blue, px[4:0] (R192). PRESUMED: the spec takes the position from general knowledge (log entry 19). -/
def pixelBlue (px : HWord) : BitVec 5 := px.extractLsb' 0 5

/-- px = {R, G, B} (R192). -/
def packPixel (r : BitVec 5) (g : BitVec 6) (b : BitVec 5) : HWord := r ++ g ++ b

end Sys2Proof.Machine
end

