-- ==== Sys2Proof/Machine/Raster.lean ====
section
/-! DEFINITION. The tile rasterizer, unit TR (43_tile_rasterizer.md): the mapper (R210 to R214), the render step and the
display's call and answer (R215, R216). -/

namespace Sys2Proof.Machine

/-- Pixel index of row r, column k (R210); an index out of range has no address (R212). -/
def pixelIndex (c : Params) (r k : Nat) : Option Nat :=
  if r < c.tileH ∧ k < c.tileW then some (r * c.tileW + k) else none

/-- Row and column of pixel i (R210); refused out of range (R212). -/
def pixelRowCol (c : Params) (i : Nat) : Option (Nat × Nat) :=
  if i < c.npix then some (i / c.tileW, i % c.tileW) else none

/-- Tile-buffer offset of a pixel's low byte (R211). -/
def pixelLo (c : Params) (r k : Nat) : Option Nat := (pixelIndex c r k).map fun i => 2 * i

/-- Tile-buffer offset of a pixel's high byte (R211). -/
def pixelHi (c : Params) (r k : Nat) : Option Nat := (pixelIndex c r k).map fun i => 2 * i + 1

/-- Display position (X, Y) of a pixel of a tile with origin (ox, oy), neither wrapped nor clipped (R213). -/
def displayPos (c : Params) (ox oy : Byte) (r k : Nat) : Option (Nat × Nat) :=
  (pixelIndex c r k).map fun _ => (ox.toNat + k, oy.toNat + r)

/-- The tile-buffer byte at an offset as the render step takes it; an `unwritten` byte holds any value (R10), so it is
drawn, and R219 says that no run reaches that (log entry 6). -/
def tileByte (s : State) (p : Nat) : Byte := (s.tb.read p).getD (Config.draw8 s.draws (p + 2))

/-- The set_block call of the render step (R214, R215, R216). -/
def blockWrite (s : State) : BlockWrite where
  x := (s.ox.getD (Config.draw8 s.draws 0)).zeroExtend 16
  y := (s.oy.getD (Config.draw8 s.draws 1)).zeroExtend 16
  w := BitVec.ofNat 16 s.cfg.tileW
  h := BitVec.ofNat 16 s.cfg.tileH
  px := pixelSeq s.cfg.npix (tileByte s)
  answer := .pending

/-- Whether the render step reads nothing `unwritten`. -/
def renderWritten (s : State) : Bool :=
  s.ox.isSome && s.oy.isSome && (List.range s.cfg.payload).all fun p => (s.tb.read p).isSome

/-- The render step, at RT_DISP (R216). A read of an `unwritten` element is a draw, and is counted. -/
def renderStep (s : State) : State :=
  { s with
    displog := s.displog ++ [blockWrite s]
    fsm := .rtWait
    draws := if renderWritten s then s.draws else s.draws + 1 }

/-- The framer at RT_WAIT (R216): it holds while the last answer is PENDING, and then finishes. -/
def awaitAnswer (s : State) : State :=
  match s.displog.getLast? with
  | some ⟨_, _, _, _, _, .ok⟩ => finish .ok s
  | some ⟨_, _, _, _, _, .err⟩ => finish .displayWriteError s
  | some ⟨_, _, _, _, _, .pending⟩ => s
  | none => s

/-- Set the answer of the last call, if it is still PENDING. -/
def settleLast (a : Answer) : List BlockWrite → List BlockWrite
  | [] => []
  | [b] => if b.answer = .pending then [{ b with answer := a }] else [b]
  | b :: b' :: rest => b :: settleLast a (b' :: rest)

/-- DISP answers the pending set_block (R215, R257); where none is pending it has no step (log entry 17). -/
def displayAnswer (ok : Bool) (s : State) : State :=
  { s with displog := settleLast (if ok then .ok else .err) s.displog }

end Sys2Proof.Machine
end

