-- ==== Sys2Proof/Machine/Agents.lean ====
section
/-! DEFINITION. The steps of the agents (00_scope.md R8, 60_exceptions.md R257): an operation word issued on a port, the
framer's step, and the steps of HOST and DISP. -/

namespace Sys2Proof.Machine

/-- An agent issues an operation word (R80 to R84): a word that is no operation raises F_RESERVED before the port is
looked at (R246). -/
def issueWord (a : Agent) (w : OpWord) (s : State) : Out :=
  match decodeWord w with
  | .ok i => exec i { s with issuer := a }
  | .error _ => .next (rejectWord .reserved { s with issuer := a })

/-- A framer step that receives (R154, R155): `rx_take()`, then the meaning of the pattern at this position, or the
abort (R151). -/
def receiveStep (s : State) : Out :=
  match rxTake s with
  | .hold => .next s
  | .stop f => .fault f
  | .linkErr _ t => .next (abort t)
  | .byte b t =>
    match receivedPattern t.cfg t.fsm b with
    | some i => exec i t
    | none => .next t

/-- The framer's step (R154, R155, R216). At IDLE it has none. -/
def framerStep (s : State) : Out :=
  match s.fsm with
  | .idle => .next s
  | .qcTx _ => exec .getImageCount s
  | .qcRx _ => receiveStep s
  | .rtTx _ => exec (.getImage (indexOperand s).1) (indexOperand s).2
  | .rtHdr _ => receiveStep s
  | .rtRdy _ => exec .ready s
  | .rtPay _ _ => receiveStep s
  | .rtDisp => .next (renderStep s)
  | .rtWait => .next (awaitAnswer s)

/-- HOST sends a token (R257): it is appended to RXQ when RX_PATH = DIRECT; when VIA_RB it reaches PROD, outside the
block (log entry 13). -/
def hostSend (t : Token) (s : State) : State :=
  match s.cfg.rxPath with
  | .direct => { s with rxq := s.rxq ++ [t] }
  | .viaRb => s

/-- One step of one agent. -/
def agentStep (e : AgentStep) (s : State) : Out :=
  match e with
  | .issue a w => if a = .cons ∧ s.cfg.rxPath = .viaRb then .refused .noSuchAgent else issueWord a w s
  | .framer => framerStep s
  | .hostSend t => .next (hostSend t s)
  | .hostSink r => .next { s with txReady := r }
  | .hostDrop => .next s
  | .dispAnswer ok => .next (displayAnswer ok s)

/-- The agent step that comes next, and the state without it: the first of the agenda, else one of the free schedule
(log entry 3). -/
def nextAgentStep (s : State) : AgentStep × State :=
  match s.agenda with
  | e :: rest => (e, { s with agenda := rest })
  | [] => (Config.agentStep s.turn, { s with turn := s.turn + 1 })

/-! ### Placing an instruction for the next step (log entry 4) -/

/-- The agent that a word is placed for: the owner of the port its OPC names (R81, R82); CALLER where any agent may
issue it or none may. -/
def placingAgent (rx : RxPath) (w : OpWord) : Agent :=
  if (opcField w).toNat / 16 = 1 then .prod
  else if (opcField w).toNat / 16 = 2 ∧ rx = .direct then .cons
  else .caller

/-- Put one agent step first. -/
def placeStep (e : AgentStep) (s : State) : State := { s with agenda := e :: s.agenda }

/-- Make these bytes the next the framer takes: the head of RXQ when DIRECT; when VIA_RB the slots from `rd` on, as many
as fit, with no link error pending. -/
def placeReceived (bs : List Byte) (s : State) : State :=
  match s.cfg.rxPath with
  | .direct => { s with rxq := bs.map Token.byte ++ s.rxq }
  | .viaRb =>
    (bs.take (s.cfg.depth - 1)).foldl (fun t b => ringStore b t) { s with linkErr := false, wr := s.rd }

/-- Bring the framer to a wire pattern's first byte, as if its request had been accepted, with the sink ready. -/
def placeWire (i : Instr) (s : State) : State :=
  match i with
  | .getImageCount => { acceptQueryCount s with txReady := true }
  | .getImage idx => { acceptRequestTile idx s with txReady := true }
  | .ready => { acceptRequestTile 0#16 s with txReady := true, fsm := .rtRdy 0 }
  | .countResp r0 r1 => placeReceived [r0, r1] { acceptQueryCount s with fsm := .qcRx 0 }
  | .tileHdr x y => placeReceived [x, y] { acceptRequestTile 0#16 s with fsm := .rtHdr 0 }
  | .payloadPixel lo hi => placeReceived [lo, hi] { acceptRequestTile 0#16 s with fsm := .rtPay 0 0 }
  | .rbPut _ => s
  | .rbPerr => s
  | .rbGet => s
  | .rbHasdata => s
  | .rbIsempty => s
  | .rbIsfull => s
  | .rbSlots => s
  | .frQc => s
  | .frTile _ => s
  | .frStat => s
  | .frCount => s
  | .frOrigin => s

/-- Make the next step the one that runs what `decodeTableWord nbits w` reads: an operation word is issued by an agent,
a wire pattern is run by the framer. Bits that are no wire pattern are issued as an operation word. -/
def placeInstr (nbits w : Nat) (s : State) : State :=
  match decodeTableWord nbits w with
  | some i =>
    match encodeWord i with
    | some ow => placeStep (.issue (placingAgent s.cfg.rxPath ow) ow) s
    | none => placeStep .framer (placeWire i s)
  | none => placeStep (.issue (placingAgent s.cfg.rxPath (BitVec.ofNat 32 w)) (BitVec.ofNat 32 w)) s

end Sys2Proof.Machine
end

