-- ==== Sys2Proof/Machine/Step.lean ====
section
/-! DEFINITION. One step of the machine: one atomic step of one agent (20_memory.md R67, R72). -/

namespace Sys2Proof.Machine

/-- One step. A block outside the ranges of R6 is refused; else the next agent's step is taken. -/
def step (s : State) : Host.Outcome State Fault Refusal :=
  if s.cfg.ok then agentStep (nextAgentStep s).1 (nextAgentStep s).2 else .refused .badConfig

/-- `s` with the instruction whose bits are `w`, numbered as spec/opcode_table.json numbers them, placed so that the
very next step runs it (log entry 4). -/
def State.withFetchWord (s : State) (nbits w : Nat) : State := placeInstr nbits w s

end Sys2Proof.Machine
end

