-- ==== Sys2Proof/Safety.lean ====
section
/-! DEFINITION. The terms that claims use: the bytes the ring buffers, the invariant of the block, what a request has put
on the TX port, the end and the observation of a run (70_reset_and_hazards.md R287), a launch state (R288), runs of the
framer with PROD relaying bytes or not, and what a whole request leaves. -/

namespace Sys2Proof.Machine

/-! ### The ring buffer's content -/

/-- Index of the k-th oldest buffered byte: rd + k, modulo N (R28). -/
def bufferedIndex (s : State) (k : Nat) : Nat := ((s.rd + BitVec.ofNat 16 k) &&& s.cfg.mask).toNat

/-- The buffered bytes, oldest first: the slots rd, rd+1, …, wr−1 modulo N (R28). -/
def buffered (s : State) : List (Option Byte) :=
  (List.range (ringCount s).toNat).map fun k => s.rbMem.read (bufferedIndex s k)

/-! ### The invariant -/

/-- The ranges of the sequence state's indexes, and which request each value belongs to (R33). -/
def Fsm.fits (c : Params) (op : LastOp) : Fsm → Prop
  | .idle => True
  | .qcTx _ => op = .queryCount
  | .qcRx _ => op = .queryCount
  | .rtTx _ => op = .requestTile
  | .rtHdr _ => op = .requestTile
  | .rtRdy m => op = .requestTile ∧ m < c.nchunk
  | .rtPay m j => op = .requestTile ∧ m < c.nchunk ∧ j < c.chunk
  | .rtDisp => op = .requestTile
  | .rtWait => op = .requestTile

/-- How many response bytes of the current request's tile are in TB (R62, R149). -/
def Fsm.received (c : Params) : Fsm → Nat
  | .rtRdy m => m * c.chunk
  | .rtPay m j => m * c.chunk + j
  | .rtDisp => c.payload
  | .rtWait => c.payload
  | _ => 0

/-- Whether the origin of the current tile is complete (R148, R155). -/
def Fsm.pastHeader : Fsm → Bool
  | .rtRdy _ => true
  | .rtPay _ _ => true
  | .rtDisp => true
  | .rtWait => true
  | _ => false

/-- Every tile-buffer offset below `n` holds a byte. -/
def tileWritten (s : State) (n : Nat) : Prop := ∀ p < n, (s.tb.read p).isSome

/-- What is true of the block's state at reset and after every step. -/
structure Inv (s : State) : Prop where
  /-- The block's parameters are in range (R6). -/
  params : s.cfg.ok = true
  /-- 0 ≤ rd ≤ MASK (R23). -/
  rdRange : s.rd ≤ s.cfg.mask
  /-- 0 ≤ wr ≤ MASK (R24). -/
  wrRange : s.wr ≤ s.cfg.mask
  /-- RBMem is in its canonical form and has N slots (R22, R60). -/
  ringForm : s.rbMem.wf = true ∧ s.rbMem.within s.cfg.depth = true
  /-- TB is in its canonical form and has PAYLOAD bytes (R36, R60). -/
  tileForm : s.tb.wf = true ∧ s.tb.within s.cfg.payload = true
  /-- link_err does not exist when RX_PATH = DIRECT (R25). -/
  linkErrPath : s.cfg.rxPath = .direct → s.linkErr = false
  /-- RXQ is used only when RX_PATH = DIRECT (R39, R257). -/
  rxqPath : s.cfg.rxPath = .viaRb → s.rxq = []
  /-- The sequence state is one of R33, of the request accepted last (R31). -/
  fsmFits : s.fsm.fits s.cfg s.lastOp
  /-- While BUSY, RESULT is NONE and both valid bits are 0 (R156). -/
  busyClear : s.fsm ≠ .idle → s.result = .none ∧ s.countValid = false ∧ s.originValid = false
  /-- count is valid only after a QueryCount that finished with OK, and is then written (R34). -/
  countReady : s.countValid = true →
    s.result = .ok ∧ s.lastOp = .queryCount ∧ s.count.lo.isSome ∧ s.count.hi.isSome
  /-- The origin is valid only after a RequestTile whose payload arrived, and is then written (R35). -/
  originReady : s.originValid = true →
    (s.result = .ok ∨ s.result = .displayWriteError) ∧ s.lastOp = .requestTile ∧ s.ox.isSome ∧ s.oy.isSome
  /-- The results that set a valid bit have set it (R242). -/
  resultRecorded : (s.result = .ok → s.lastOp = .queryCount → s.countValid = true) ∧
    (s.result = .ok → s.lastOp = .requestTile → s.originValid = true) ∧
    (s.result = .displayWriteError → s.originValid = true)
  /-- A RequestTile's index is latched as long as it runs (R32). -/
  indexLatched : s.fsm ≠ .idle → s.lastOp = .requestTile → s.idx.isSome
  /-- The response bytes taken so far are written (R34, R35). -/
  headWritten : (s.fsm = .qcRx 1 → s.count.lo.isSome) ∧ (s.fsm = .rtHdr 1 → s.ox.isSome) ∧
    (s.fsm.pastHeader = true → s.ox.isSome ∧ s.oy.isSome)
  /-- The payload bytes taken so far are written (R62, R149). -/
  payloadWritten : tileWritten s (s.fsm.received s.cfg)
  /-- A valid origin comes with a whole payload (R35). -/
  tileReady : s.originValid = true → tileWritten s s.cfg.payload
  /-- A set_block waits for its answer only at RT_WAIT, and only the last one does (R216). -/
  answered : (s.fsm ≠ .rtWait → ∀ b ∈ s.displog, b.answer ≠ .pending) ∧
    (s.fsm = .rtWait → s.displog ≠ [] ∧ ∀ b ∈ s.displog.dropLast, b.answer ≠ .pending)

/-- As long as no ring fault has been raised, every buffered slot was written (R113, R288). -/
def RingWritten (s : State) : Prop :=
  s.faults.rbPutFull = false → s.faults.rbGetEmpty = false → ∀ v ∈ buffered s, v.isSome

/-! ### What a request puts on the TX port (R161) -/

/-- The whole of what one request has emitted when it has ended (R161): a QueryCount its frame; a RequestTile its frame
and at most NCHUNK ready bytes. -/
def FinishedTx (c : Params) (d : List Byte) : Prop :=
  d = frameCount ∨ ∃ i m, m ≤ c.nchunk ∧ d = frameImage i ++ List.replicate m Config.readyByte

/-- What the request in flight has emitted so far (R154, R155). -/
def requestTx (s : State) : List Byte :=
  match s.fsm with
  | .idle => []
  | .qcTx k => frameCount.take k
  | .qcRx _ => frameCount
  | .rtTx k => (frameImage (s.idx.getD 0)).take k
  | .rtHdr _ => frameImage (s.idx.getD 0)
  | .rtRdy m => frameImage (s.idx.getD 0) ++ List.replicate m Config.readyByte
  | .rtPay m _ => frameImage (s.idx.getD 0) ++ List.replicate (m + 1) Config.readyByte
  | .rtDisp => frameImage (s.idx.getD 0) ++ List.replicate s.cfg.nchunk Config.readyByte
  | .rtWait => frameImage (s.idx.getD 0) ++ List.replicate s.cfg.nchunk Config.readyByte

/-- TXLOG is the bytes of the requests that ended, then those of the request in flight, and no other byte (R161,
R261). -/
def TxTrace (s : State) : Prop :=
  ∃ ended : List (List Byte), (∀ d ∈ ended, FinishedTx s.cfg d) ∧ s.txlog = ended.flatten ++ requestTx s

/-! ### Frames -/

/-- The ring buffer is as before: every slot, both cursors and the pending link error. -/
def sameRing (s t : State) : Prop :=
  (∀ a, t.rbMem.read a = s.rbMem.read a) ∧ t.rd = s.rd ∧ t.wr = s.wr ∧ t.linkErr = s.linkErr

/-- Every byte of the tile buffer is as before. -/
def sameTile (s t : State) : Prop := ∀ a, t.tb.read a = s.tb.read a

/-- The request registers are as before. -/
def sameRequest (s t : State) : Prop :=
  t.fsm = s.fsm ∧ t.result = s.result ∧ t.lastOp = s.lastOp ∧ t.idx = s.idx

/-- The result registers are as before. -/
def sameResults (s t : State) : Prop :=
  t.count = s.count ∧ t.countValid = s.countValid ∧ t.ox = s.ox ∧ t.oy = s.oy ∧ t.originValid = s.originValid

/-- The serial link and the display log are as before. -/
def sameLink (s t : State) : Prop :=
  t.rxq = s.rxq ∧ t.txlog = s.txlog ∧ t.txReady = s.txReady ∧ t.displog = s.displog

/-- The model's own fields, but for the count of draws, are as before. -/
def sameModel (s t : State) : Prop :=
  t.cfg = s.cfg ∧ t.issuer = s.issuer ∧ t.agenda = s.agenda ∧ t.turn = s.turn

/-- The port of an operation: the high nibble of its OPC (R81). A wire pattern has none. -/
def portOf : Instr → Option Port
  | .rbPut _ => some .producer
  | .rbPerr => some .producer
  | .rbGet => some .consumer
  | .rbHasdata => some .status
  | .rbIsempty => some .status
  | .rbIsfull => some .status
  | .rbSlots => some .status
  | .frQc => some .control
  | .frTile _ => some .control
  | .frStat => some .control
  | .frCount => some .control
  | .frOrigin => some .control
  | .getImageCount => none
  | .getImage _ => none
  | .ready => none
  | .countResp _ _ => none
  | .tileHdr _ _ => none
  | .payloadPixel _ _ => none

/-- The sequence states whose step begins with `rx_take` (R154, R155). -/
def Fsm.receives : Fsm → Bool
  | .qcRx _ => true
  | .rtHdr _ => true
  | .rtPay _ _ => true
  | _ => false

/-! ### Causes of a fault -/

/-- The agent step is the operation `i`, issued by `a`. -/
def issues (e : AgentStep) (a : Agent) (i : Instr) : Prop := ∃ w, e = .issue a w ∧ decodeWord w = .ok i

/-- The cause of each fault code, with the word checks in their order (R244, R246): a reserved word; a word that is not
reserved, issued by an agent that does not own its port; the operation's own precondition, for the port's owner. -/
def faultCause (s : State) (e : AgentStep) : FaultCode → Prop
  | .reserved => ∃ a w, e = .issue a w ∧ reservedWord s.cfg.rxPath w = true
  | .port => ∃ a i p, issues e a i ∧ i.wf s.cfg.rxPath = true ∧ portOf i = some p ∧
      ownsPort s.cfg.rxPath a p = false
  | .rbPutFull => (∃ b, issues e .prod (.rbPut b)) ∧ s.rd = (s.wr + 1#16) &&& s.cfg.mask
  | .rbGetEmpty => issues e .cons .rbGet ∧ s.cfg.rxPath = .direct ∧ s.rd = s.wr
  | .frBusy => (issues e .caller .frQc ∨ ∃ i, issues e .caller (.frTile i)) ∧ s.fsm ≠ .idle
  | .undefRead => (issues e .caller .frCount ∧ s.countValid = false) ∨
      (issues e .caller .frOrigin ∧ s.originValid = false)

/-! ### Where a received byte goes -/

/-- What stands where a byte taken at position `f` is stored (R154, R155): a byte of count, a byte of the origin, or TB at
the payload byte's offset. -/
def storedAt (f : Fsm) (s : State) : Option Byte :=
  match f with
  | .qcRx 0 => s.count.lo
  | .qcRx 1 => s.count.hi
  | .rtHdr 0 => s.ox
  | .rtHdr 1 => s.oy
  | .rtPay m j => s.tb.read (m * s.cfg.chunk + j)
  | .idle => none
  | .qcTx _ => none
  | .rtTx _ => none
  | .rtRdy _ => none
  | .rtDisp => none
  | .rtWait => none

/-! ### The end of a run (R287) -/

/-- The run is finished (R287): IDLE, no agent has an operation still to issue, no set_block unanswered. The agents'
programs are the claim's own: here the operations that `agenda` lists; a step of another kind may be left in it. -/
def finished (s : State) : Prop :=
  s.fsm = .idle ∧ (∀ a w, AgentStep.issue a w ∉ s.agenda) ∧ ∀ b, s.displog.getLast? = some b → b.answer ≠ .pending

/-- A finished run is good when no fault was raised (R287). -/
def goodRun (s : State) : Prop := finished s ∧ s.faults = FaultSet.empty

/-- The observation of a run (R287). -/
structure Observation where
  /-- RESULT. -/
  result : OpResult
  /-- The count register. -/
  count : PartWord
  /-- The count register's valid bit. -/
  countValid : Bool
  /-- The origin register, x. -/
  ox : Option Byte
  /-- The origin register, y. -/
  oy : Option Byte
  /-- The origin register's valid bit. -/
  originValid : Bool
  /-- TXLOG. -/
  txlog : List Byte
  /-- DISPLOG. -/
  displog : List BlockWrite
  /-- The ring buffer's read cursor. -/
  rd : HWord
  /-- The ring buffer's write cursor. -/
  wr : HWord
  /-- The ring buffer's buffered bytes, oldest first. -/
  buffered : List (Option Byte)
  /-- The values the operations returned, oldest first, each with the agent it was returned to. -/
  returned : List Response
deriving DecidableEq, Repr

/-- What a run that ended in `s` shows (R287). -/
def observe (s : State) : Observation where
  result := s.result
  count := s.count
  countValid := s.countValid
  ox := s.ox
  oy := s.oy
  originValid := s.originValid
  txlog := s.txlog
  displog := s.displog
  rd := s.rd
  wr := s.wr
  buffered := buffered s
  returned := s.reslog

/-- The clean-entry record of a launch state (R288), for the request in flight that the claim gives (`fsm`). -/
def launchOk (s : State) (inFlight : Fsm) : Prop :=
  s.faults = FaultSet.empty ∧ s.rd ≤ s.cfg.mask ∧ s.wr ≤ s.cfg.mask ∧ s.fsm = inFlight ∧
    ∀ v ∈ buffered s, v.isSome

/-! ### Runs -/

/-- Go on from a next state; a fault or a refusal ends the run. -/
def thenRun (o : Out) (f : State → Out) : Out :=
  match o with
  | .next t => f t
  | .fault e => .fault e
  | .refused r => .refused r

/-- `n` framer steps with no other agent's step between them. -/
def framerRun : Nat → State → Out
  | 0, s => .next s
  | n + 1, s => thenRun (framerStep s) (framerRun n)

/-- PROD issues RB.PUT of a byte. -/
def prodPut (b : Byte) (s : State) : Out := exec (.rbPut b) { s with issuer := .prod }

/-- PROD issues RB.PERR. -/
def prodPerr (s : State) : Out := exec .rbPerr { s with issuer := .prod }

/-- CONS issues RB.GET. -/
def consGet (s : State) : Out := exec .rbGet { s with issuer := .cons }

/-- Puts (a byte) and gets (none) one after the other, the puts by PROD and the gets by CONS (R109). -/
def ringRun : List (Option Byte) → State → Out
  | [], s => .next s
  | some b :: ops, s => thenRun (prodPut b s) (ringRun ops)
  | none :: ops, s => thenRun (consGet s) (ringRun ops)

/-- `n` framer steps when VIA_RB, PROD relaying the bytes `feed` of the host between them: whenever the framer's next step
is a receive and the ring buffer is empty, PROD puts the next byte before it. -/
def relayRun : Nat → List Byte → State → Out
  | 0, _, s => .next s
  | n + 1, [], s => thenRun (framerStep s) (relayRun n [])
  | n + 1, b :: feed, s =>
    if s.fsm.receives && isEmpty s then thenRun (thenRun (prodPut b s) framerStep) (relayRun n feed)
    else thenRun (framerStep s) (relayRun n (b :: feed))

/-- A ring buffer that gives the framer exactly `response` when VIA_RB, with the sink ready: `held` is buffered and PROD
relays `feed`; `rest` is what stays buffered, so bytes are fed only if nothing stays. -/
structure Relays (s : State) (held feed response rest : List Byte) : Prop where
  /-- The block's parameters are in range (R6). -/
  params : s.cfg.ok = true
  /-- The framer reads the ring buffer (R143). -/
  path : s.cfg.rxPath = .viaRb
  /-- The TX sink is ready (R141). -/
  sink : s.txReady = true
  /-- No link error is pending (R143). -/
  noError : s.linkErr = false
  /-- 0 ≤ rd ≤ MASK (R23). -/
  rdRange : s.rd ≤ s.cfg.mask
  /-- 0 ≤ wr ≤ MASK (R24). -/
  wrRange : s.wr ≤ s.cfg.mask
  /-- The buffered bytes are written (R288). -/
  holds : buffered s = held.map some
  /-- What is buffered and what is relayed make the response and what is left. -/
  gives : held ++ feed = response ++ rest
  /-- Nothing is relayed past the response. -/
  exact : rest = [] ∨ feed = []

/-- The ring buffer at the end of such a run: `rest` is buffered, the cursors in range, no link error pending. -/
def keeps (t : State) (rest : List Byte) : Prop :=
  t.rd ≤ t.cfg.mask ∧ t.wr ≤ t.cfg.mask ∧ buffered t = rest.map some ∧ t.linkErr = false

/-! ### What a whole request leaves -/

/-- A QueryCount that started in `s` and received `r0` and `r1` has ended in `t` (R154): the run is good if it was, no
fault was raised, and FR.COUNT hands out r0 + 256·r1. -/
def countArrived (r0 r1 : Byte) (s t : State) : Prop :=
  t.fsm = .idle ∧ t.lastOp = .queryCount ∧ t.faults = s.faults ∧ (goodRun s → goodRun t) ∧
    ∃ v : HWord, v.toNat = r0.toNat + 256 * r1.toNat ∧
      exec .frCount { t with issuer := .caller } =
        .next { t with issuer := .caller, reslog := t.reslog ++ [⟨.caller, v⟩] }

/-- A RequestTile of `i` that started in `s` and received the origin (x, y) and the payload `pay` waits in `t` for the
display's answer (R155, R216). -/
def tileArrived (i : HWord) (x y : Byte) (pay : List Byte) (s t : State) : Prop :=
  t.fsm = .rtWait ∧ t.result = .none ∧ t.lastOp = .requestTile ∧ t.ox = some x ∧ t.oy = some y ∧
    t.txlog = s.txlog ++ frameImage i ++ List.replicate s.cfg.nchunk 0xAA#8 ∧
    (∀ p, p < s.cfg.payload → t.tb.read p = pay[p]?) ∧
    t.displog = s.displog ++ [⟨x.zeroExtend 16, y.zeroExtend 16, BitVec.ofNat 16 s.cfg.tileW,
      BitVec.ofNat 16 s.cfg.tileH, pixelSeq s.cfg.npix (fun p => pay.getD p 0#8), .pending⟩] ∧
    t.faults = s.faults

/-- A RequestTile of `i` that started in `s` and met a link error after `q` payload bytes has ended in `t` (R151). -/
def tileAborted (i : HWord) (q : Nat) (s t : State) : Prop :=
  t.fsm = .idle ∧ t.result = .transferAborted ∧ t.lastOp = .requestTile ∧ t.originValid = false ∧
    t.ox = none ∧ t.oy = none ∧ (∀ p, t.tb.read p = none) ∧ t.displog = s.displog ∧
    t.txlog = s.txlog ++ frameImage i ++ List.replicate (q / s.cfg.chunk + 1) 0xAA#8 ∧ t.faults = s.faults

end Sys2Proof.Machine
end

