-- ==== Sys2Proof/Certificates/Slice0/Obligations.lean ====
section
/-! DEFINITION. The statements about the tile-link block that are to be proved. Each docstring names the rule of spec/ it
formalises. Where a statement is about the spec's own decisions (92_eei_decisions.md D<n>) or the model's log entries, the
docstring says so. -/

open Sys2Proof Sys2Proof.Machine

/-! ### Encodings -/

/-- The worked encodings of R91: its fourteen operation words and its three reserved ones. The encoding is the spec's own decision D21. -/
def Obligations.WorkedEncodingsDecode : Prop :=
  decodeWord 0x10000041#32 = .ok (.rbPut 0x41#8) ∧ decodeWord 0x100000FF#32 = .ok (.rbPut 0xFF#8) ∧
  decodeWord 0x11000000#32 = .ok .rbPerr ∧ decodeWord 0x20000000#32 = .ok .rbGet ∧
  decodeWord 0x30000000#32 = .ok .rbHasdata ∧ decodeWord 0x31000000#32 = .ok .rbIsempty ∧
  decodeWord 0x32000000#32 = .ok .rbIsfull ∧ decodeWord 0x33000000#32 = .ok .rbSlots ∧
  decodeWord 0x40000000#32 = .ok .frQc ∧
  decodeWord 0x41000003#32 = .ok (.frTile 0x0003#16) ∧ decodeWord 0x4100FFFF#32 = .ok (.frTile 0xFFFF#16) ∧
  decodeWord 0x42000000#32 = .ok .frStat ∧ decodeWord 0x43000000#32 = .ok .frCount ∧
  decodeWord 0x44000000#32 = .ok .frOrigin ∧
  (∀ rx, reservedWord rx 0x10000141#32 = true ∧ reservedWord rx 0x12000000#32 = true ∧
    reservedWord rx 0x40010000#32 = true)

/-- R80, R81, R83: the number of every operation word, and that every operand is taken unsigned from its own bits. The
encoding is the spec's own decision D21. -/
def Obligations.OpWordNumbers : Prop :=
  (∀ b : Byte, ∃ w, encodeWord (.rbPut b) = some w ∧ w.toNat = 0x10000000 + b.toNat) ∧
  (∀ i : HWord, ∃ w, encodeWord (.frTile i) = some w ∧ w.toNat = 0x41000000 + i.toNat) ∧
  (∀ p ∈ [(Instr.rbPerr, 0x11), (.rbGet, 0x20), (.rbHasdata, 0x30), (.rbIsempty, 0x31), (.rbIsfull, 0x32),
      (.rbSlots, 0x33), (.frQc, 0x40), (.frStat, 0x42), (.frCount, 0x43), (.frOrigin, 0x44)],
    ∃ w, encodeWord p.1 = some w ∧ w.toNat = p.2 * 2 ^ 24) ∧
  (∀ b : Byte, b.toNat < 2 ^ 8) ∧ ∀ i : HWord, i.toNat < 2 ^ 16

/-- Decoding an operation word gives an operation exactly when that is the operation's word: no bit of an encoding is
dropped, and no other word has the meaning (R80, R81, R83). The encoding is the spec's own decision D21. -/
def Obligations.OpWordsDecodeExactly : Prop :=
  ∀ (i : Instr) (w : OpWord), decodeWord w = .ok i ↔ encodeWord i = some w

/-- R84: which words are reserved, clause by clause, on the word's number. The encoding is the spec's own decision D21. -/
def Obligations.ReservedWordsAreExactly : Prop :=
  ∀ (rx : RxPath) (w : OpWord),
    reservedWord rx w = true ↔
      w.toNat / 2 ^ 24 ∉ [0x10, 0x11, 0x20, 0x30, 0x31, 0x32, 0x33, 0x40, 0x41, 0x42, 0x43, 0x44] ∨
      w.toNat / 2 ^ 16 % 2 ^ 8 ≠ 0 ∨
      (w.toNat / 2 ^ 24 = 0x10 ∧ w.toNat / 2 ^ 8 % 2 ^ 8 ≠ 0) ∨
      (w.toNat / 2 ^ 24 ≠ 0x10 ∧ w.toNat / 2 ^ 24 ≠ 0x41 ∧ w.toNat % 2 ^ 16 ≠ 0) ∨
      (w.toNat / 2 ^ 24 = 0x11 ∧ rx = .direct)

/-- Every instruction that is not a received pattern is decoded from the bits the opcode table gives it; a received
pattern is decoded from its two bytes by its position (R81, R85, R88). How `decodeTableWord` numbers wire patterns is
log entry 12. -/
def Obligations.TableNumberRoundTrip : Prop :=
  ∀ i : Instr,
    match rxPosOf i with
    | none => decodeTableWord (encode i).1 (encode i).2 = some i
    | some p => ∃ b0 b1, wireBytes i = [b0, b1] ∧ (encode i).1 = 16 ∧
        (encode i).2 = b0.toNat * 256 + b1.toNat ∧ decodeRx p b0 b1 = i

/-- R85, R86: a peer that reads the sent bytes finds each frame, with exactly the arguments its command code implies, and
what follows it; and the two index bytes give the index back for every index (R146, L1-3). -/
def Obligations.SentFramesDecode : Prop :=
  (∀ rest, decodeTx ([0xFF#8, 0x01#8] ++ rest) = .ok (.getImageCount, rest)) ∧
  (∀ (i : HWord) (rest : List Byte), ∃ lo hi, decodeTx ([0xFF#8, 0x02#8, lo, hi] ++ rest) = .ok (.getImage i, rest) ∧
    wireBytes (.getImage i) = [0xFF#8, 0x02#8, lo, hi] ∧ lo.toNat = i.toNat % 256 ∧ hi.toNat = i.toNat / 256 ∧
    le16 lo hi = i) ∧
  (∀ rest, decodeTx (0xAA#8 :: rest) = .ok (.ready, rest)) ∧
  (∀ (code : Byte) (rest : List Byte), code ≠ 0x01#8 → code ≠ 0x02#8 →
    decodeTx (0xFF#8 :: code :: rest) = .error .cmdUnknown)

/-! ### Reset -/

/-- R41, R270: the reset state of every block. The values are the spec's own decisions D3, D4, D6, D11, D22, D26 and
D35; those of `txReady` and `reslog` are the model's (log entries 8 and 10). That `State.reset` is the reset state of the
block `Config.built`, and of no other, is the model's choice too (log entry 2, DESIGN CHOICE, unsafe). -/
def Obligations.ResetState : Prop :=
  State.reset = State.resetFor Config.built ∧ Config.built.ok = true ∧
  ∀ c : Params, c.ok = true →
    let s := State.resetFor c
    s.cfg = c ∧ (∀ a, s.rbMem.read a = none) ∧ s.rd = 0 ∧ s.wr = 0 ∧ s.linkErr = false ∧ s.fsm = .idle ∧
    s.result = .none ∧ s.lastOp = .queryCount ∧ s.idx = none ∧ s.count.lo = none ∧ s.count.hi = none ∧
    s.countValid = false ∧ s.ox = none ∧ s.oy = none ∧ s.originValid = false ∧ (∀ a, s.tb.read a = none) ∧
    (∀ f, s.faults.has f = false) ∧ s.rxq = [] ∧ s.txlog = [] ∧ s.displog = [] ∧ s.txReady = true ∧ s.reslog = [] ∧
    isEmpty s = true ∧ isFull s = false ∧ (slots s).toNat = c.depth - 1 ∧ statWord s = 0

/-- Every block's reset state meets the invariants that every step keeps, is a launch state with no request in flight
(R41, R288), and is the end of a good run in which nothing happened (R287; the spec's own decisions D26 and D33). That
nothing is left to issue in it is the model's (log entry 3). -/
def Obligations.ResetMeetsInvariants : Prop :=
  ∀ c : Params, c.ok = true →
    Inv (State.resetFor c) ∧ TxTrace (State.resetFor c) ∧ RingWritten (State.resetFor c) ∧
      launchOk (State.resetFor c) .idle ∧ goodRun (State.resetFor c)

/-! ### What a step runs -/

/-- A step at which an agent issues a word that decodes to `i` is exec of `i`, the step having been taken off the agenda
and the agent noted (R67, R81; log entries 3 and 9). -/
def Obligations.StepRunsIssuedOperation : Prop :=
  ∀ (s : State) (a : Agent) (w : OpWord) (rest : List AgentStep) (i : Instr),
    s.cfg.ok = true → s.agenda = .issue a w :: rest → (a = .cons → s.cfg.rxPath = .direct) → decodeWord w = .ok i →
    step s = exec i { s with agenda := rest, issuer := a }

/-- R84, R244, R246: a reserved word raises F_RESERVED alone, whichever agent issues it, changes no other state and
returns 0 (the spec's own decisions D21 and D36). -/
def Obligations.StepRejectsReservedWord : Prop :=
  ∀ (s : State) (a : Agent) (w : OpWord) (rest : List AgentStep),
    s.cfg.ok = true → s.agenda = .issue a w :: rest → (a = .cons → s.cfg.rxPath = .direct) →
    reservedWord s.cfg.rxPath w = true →
    step s = .next { s with
      agenda := rest
      issuer := a
      faults := s.faults.add .reserved
      reslog := s.reslog ++ [⟨a, 0#16⟩] }

/-- The framer's step at a sending position is exec of the pattern being sent, with the latched index for GETIMAGE; at
RT_DISP it is the render step and at RT_WAIT the wait (R154, R155, R216; log entry 11). At IDLE the spec gives the framer
no step; that such a step changes nothing is the model's choice (log entry 7, DESIGN CHOICE). -/
def Obligations.StepRunsSentPattern : Prop :=
  ∀ (s : State) (rest : List AgentStep), s.cfg.ok = true → s.agenda = .framer :: rest →
    let u := { s with agenda := rest }
    (∀ k, s.fsm = .qcTx k → step s = exec .getImageCount u) ∧
    (∀ k i, s.fsm = .rtTx k → s.idx = some i → step s = exec (.getImage i) u) ∧
    (∀ m, s.fsm = .rtRdy m → step s = exec .ready u) ∧
    (s.fsm = .rtDisp → step s = .next (renderStep u)) ∧
    (s.fsm = .rtWait → step s = .next (awaitAnswer u)) ∧
    (s.fsm = .idle → step s = .next u)

/-- The framer's step at a receiving position takes one token, and then is exec of the pattern that the byte belongs to by
its position, whatever the pattern's other byte is; a link error aborts, and nothing to take is a hold (R142, R143, R147
to R149, R151, R154, R155; log entries 7 and 11). -/
def Obligations.StepRunsReceivedPattern : Prop :=
  ∀ (s t : State) (rest : List AgentStep) (b other : Byte) (k : Option LinkKind),
    s.cfg.ok = true → s.agenda = .framer :: rest →
    let u := { s with agenda := rest }
    (rxTake u = .byte b t →
      (s.fsm = .qcRx 0 → step s = exec (.countResp b other) t) ∧
      (s.fsm = .qcRx 1 → step s = exec (.countResp other b) t) ∧
      (s.fsm = .rtHdr 0 → step s = exec (.tileHdr b other) t) ∧
      (s.fsm = .rtHdr 1 → step s = exec (.tileHdr other b) t) ∧
      (∀ m j, s.fsm = .rtPay m j → (m * s.cfg.chunk + j) % 2 = 0 → step s = exec (.payloadPixel b other) t) ∧
      (∀ m j, s.fsm = .rtPay m j → (m * s.cfg.chunk + j) % 2 = 1 → step s = exec (.payloadPixel other b) t)) ∧
    (s.fsm.receives = true → rxTake u = .linkErr k t → step s = .next (abort t)) ∧
    (s.fsm.receives = true → rxTake u = .hold → step s = .next u)

/-- The steps of HOST and DISP (R39, R141, R215, R257; the spec's own decisions D1, D16 and D28, log entries 8, 13 and 17). -/
def Obligations.StepsOfHostAndDisplay : Prop :=
  ∀ (s : State) (rest : List AgentStep) (tok : Token) (r ok : Bool), s.cfg.ok = true →
    (s.agenda = .hostSend tok :: rest → s.cfg.rxPath = .direct →
      step s = .next { s with agenda := rest, rxq := s.rxq ++ [tok] }) ∧
    (s.agenda = .hostSend tok :: rest → s.cfg.rxPath = .viaRb → step s = .next { s with agenda := rest }) ∧
    (s.agenda = .hostSink r :: rest → step s = .next { s with agenda := rest, txReady := r }) ∧
    (s.agenda = .hostDrop :: rest → step s = .next { s with agenda := rest }) ∧
    (s.agenda = .dispAnswer ok :: rest →
      (s.displog = [] → step s = .next { s with agenda := rest }) ∧
      (∀ l b, s.displog = l ++ [b] → b.answer ≠ .pending → step s = .next { s with agenda := rest }) ∧
      (∀ l b, s.displog = l ++ [b] → b.answer = .pending →
        step s = .next { s with
          agenda := rest
          displog := l ++ [{ b with answer := if ok then .ok else .err }] }))

/-- Where no agent step is given in advance, a step is the step of the agent that the free schedule draws for this turn (R8,
R72, R256; the schedule is the model's, log entry 3); a block outside R6's ranges and a step of CONS when VIA_RB are refused (R6, R8, R245; log entry 16);
and the two faults, the model's own, stop every access to a ring slot or a tile byte that does not exist (R60; log entries
14 and 15). -/
def Obligations.ScheduleAndStops : Prop :=
  ∀ s : State,
    (s.agenda = [] → step s = step { s with agenda := [Config.agentStep s.turn], turn := s.turn + 1 }) ∧
    (s.cfg.ok = false → step s = .refused .badConfig) ∧
    (∀ w rest, s.cfg.ok = true → s.cfg.rxPath = .viaRb → s.agenda = .issue .cons w :: rest →
      step s = .refused .noSuchAgent) ∧
    (s.issuer = .prod → s.cfg.mask < s.wr → ∀ b, exec (.rbPut b) s = .fault .noSlot) ∧
    (s.issuer = .cons → s.cfg.rxPath = .direct → s.rd ≠ s.wr → s.cfg.mask < s.rd → exec .rbGet s = .fault .noSlot) ∧
    (s.fsm.receives = true → s.cfg.rxPath = .viaRb → s.linkErr = false → s.rd ≠ s.wr → s.cfg.mask < s.rd →
      framerStep s = .fault .noSlot) ∧
    (∀ m j, s.fsm = .rtPay m j → s.cfg.payload ≤ m * s.cfg.chunk + j →
      ∀ lo hi, exec (.payloadPixel lo hi) s = .fault .noTileByte)

/-! ### The ring buffer -/

/-- R27, with R26's count and R110's bound: the laws of the derived values in every state whose cursors are in range. -/
def Obligations.RingStatusLaws : Prop :=
  ∀ s : State, s.cfg.ok = true → s.rd ≤ s.cfg.mask → s.wr ≤ s.cfg.mask →
    (buffered s).length = (s.wr.toNat + s.cfg.depth - s.rd.toNat) % s.cfg.depth ∧
    (buffered s).length ≤ s.cfg.depth - 1 ∧
    (slots s).toNat = s.cfg.depth - 1 - (buffered s).length ∧
    isEmpty s = !hasData s ∧
    (isFull s = true ↔ (buffered s).length = s.cfg.depth - 1) ∧ (isFull s = true ↔ (slots s).toNat = 0) ∧
    (isEmpty s = true ↔ (buffered s).length = 0) ∧ (isEmpty s = true ↔ (slots s).toNat = s.cfg.depth - 1) ∧
    ¬(isEmpty s = true ∧ isFull s = true)

/-- R116: cursor arithmetic is arithmetic modulo N. -/
def Obligations.CursorArithmetic : Prop :=
  ∀ (c : Params) (v a b : HWord), c.ok = true → a ≤ c.mask → b ≤ c.mask →
    c.mask.toNat + 1 = 2 ^ c.log2n ∧
    (v &&& c.mask).toNat = v.toNat % 2 ^ c.log2n ∧
    (advance c a).toNat = (a.toNat + 1) % 2 ^ c.log2n ∧ advance c a ≤ c.mask ∧ advance c c.mask = 0#16 ∧
    ((a - b) &&& c.mask).toNat = (a.toNat + 2 ^ c.log2n - b.toNat) % 2 ^ c.log2n

/-- R101: RB.PUT completes for PROD at every cursor in range: the byte at `wr`, `wr` advanced, F_RB_PUT_FULL exactly when
FULL was 1, RES 0, and everything else as before (the spec's own decision D6 performs the put when FULL). -/
def Obligations.PutStoresAndAdvances : Prop :=
  ∀ (s : State) (b : Byte), s.issuer = .prod → s.wr ≤ s.cfg.mask →
    ∃ t, exec (.rbPut b) s = .next t ∧
      t.rbMem.read s.wr.toNat = some b ∧ (∀ a, a ≠ s.wr.toNat → t.rbMem.read a = s.rbMem.read a) ∧
      t.wr = (s.wr + 1#16) &&& s.cfg.mask ∧ t.rd = s.rd ∧ t.linkErr = s.linkErr ∧
      t.reslog = s.reslog ++ [⟨.prod, 0#16⟩] ∧
      (∀ f, t.faults.has f =
        (s.faults.has f || decide (f = .rbPutFull ∧ s.rd = (s.wr + 1#16) &&& s.cfg.mask))) ∧
      sameTile s t ∧ sameRequest s t ∧ sameResults s t ∧ sameLink s t ∧ sameModel s t ∧ t.draws = s.draws

/-- R111: a put while FULL leaves wr = rd, the buffer empty, and nothing of it buffered (the spec's own decision D6). -/
def Obligations.PutOnFullEmpties : Prop :=
  ∀ (s : State) (b : Byte), s.cfg.ok = true → s.issuer = .prod → s.rd ≤ s.cfg.mask → s.wr ≤ s.cfg.mask →
    (buffered s).length = s.cfg.depth - 1 →
    ∃ t, exec (.rbPut b) s = .next t ∧ t.wr = t.rd ∧ buffered t = [] ∧ isEmpty t = true ∧
      (slots t).toNat = s.cfg.depth - 1 ∧ t.faults.has .rbPutFull = true

/-- R103: RB.GET completes for CONS when DIRECT and a written byte is buffered: it returns the byte at `rd`, zero-extended,
advances `rd`, raises nothing, and leaves everything else as before. -/
def Obligations.GetTakesOldest : Prop :=
  ∀ (s : State) (v : Byte), s.issuer = .cons → s.cfg.rxPath = .direct → s.rd ≤ s.cfg.mask → s.rd ≠ s.wr →
    s.rbMem.read s.rd.toNat = some v →
    ∃ t r, exec .rbGet s = .next t ∧
      t.rd = (s.rd + 1#16) &&& s.cfg.mask ∧ t.wr = s.wr ∧ t.linkErr = s.linkErr ∧
      (∀ a, t.rbMem.read a = s.rbMem.read a) ∧
      t.reslog = s.reslog ++ [⟨.cons, r⟩] ∧ r.toNat = v.toNat ∧ t.faults = s.faults ∧
      sameTile s t ∧ sameRequest s t ∧ sameResults s t ∧ sameLink s t ∧ sameModel s t ∧ t.draws = s.draws

/-- R103, R112: a get while EMPTY, or of a slot nothing has written, still advances `rd` and returns a free value of 8 bits
(log entries 5 and 6); F_RB_GET_EMPTY is raised exactly when EMPTY was 1, and the buffer then reads as full (the spec's own
decision D7). -/
def Obligations.GetDrawsWhereNothingIs : Prop :=
  ∀ s : State, s.cfg.ok = true → s.issuer = .cons → s.cfg.rxPath = .direct → s.rd ≤ s.cfg.mask → s.wr ≤ s.cfg.mask →
    (s.rd = s.wr ∨ s.rbMem.read s.rd.toNat = none) →
    ∃ t, exec .rbGet s = .next t ∧
      t.rd = (s.rd + 1#16) &&& s.cfg.mask ∧ t.wr = s.wr ∧ t.linkErr = s.linkErr ∧
      (∀ a, t.rbMem.read a = s.rbMem.read a) ∧
      t.reslog = s.reslog ++ [⟨.cons, (Config.draw8 s.draws 0).zeroExtend 16⟩] ∧ t.draws = s.draws + 1 ∧
      (∀ f, t.faults.has f = (s.faults.has f || decide (f = .rbGetEmpty ∧ s.rd = s.wr))) ∧
      (s.rd = s.wr → isFull t = true ∧ (buffered t).length = s.cfg.depth - 1) ∧
      sameTile s t ∧ sameRequest s t ∧ sameResults s t ∧ sameLink s t ∧ sameModel s t

/-- R102, R84: RB.PERR sets link_err for PROD when VIA_RB, whether it was set or not; when DIRECT the word is reserved,
whichever agent issues it (the spec's own decisions D11 and D21). -/
def Obligations.LinkErrorReport : Prop :=
  ∀ s : State,
    (s.cfg.rxPath = .viaRb → s.issuer = .prod →
      exec .rbPerr s = .next { s with linkErr := true, reslog := s.reslog ++ [⟨.prod, 0#16⟩] }) ∧
    (s.cfg.rxPath = .direct →
      exec .rbPerr s = .next { s with
        faults := s.faults.add .reserved
        reslog := s.reslog ++ [⟨s.issuer, 0#16⟩] })

/-- R104: RB.HASDATA, for any agent: 1 when rd ≠ wr, else 0; nothing else changes; and it is the negation of RB.ISEMPTY in
the same state. Its word is 0x30000000. -/
def Obligations.HasDataReads : Prop :=
  ∀ (s : State) (a : Agent), (a = .cons → s.cfg.rxPath = .direct) →
    let answered (v : HWord) := Host.Outcome.next (φ := Fault) (ρ := Refusal)
      { s with issuer := a, reslog := s.reslog ++ [⟨a, v⟩] }
    agentStep (.issue a 0x30000000#32) s = exec .rbHasdata { s with issuer := a } ∧
    (s.rd ≠ s.wr → exec .rbHasdata { s with issuer := a } = answered 1#16 ∧
      exec .rbIsempty { s with issuer := a } = answered 0#16) ∧
    (s.rd = s.wr → exec .rbHasdata { s with issuer := a } = answered 0#16 ∧
      exec .rbIsempty { s with issuer := a } = answered 1#16)

/-- R105: RB.ISEMPTY, for any agent: 1 when rd = wr, else 0; nothing else changes; 1 after reset, and 1 after a put on a
full buffer. Its word is 0x31000000. -/
def Obligations.IsEmptyReads : Prop :=
  ∀ (s : State) (a : Agent), (a = .cons → s.cfg.rxPath = .direct) →
    agentStep (.issue a 0x31000000#32) s = exec .rbIsempty { s with issuer := a } ∧
    exec .rbIsempty s = .next { s with reslog := s.reslog ++ [⟨s.issuer, if s.rd = s.wr then 1#16 else 0#16⟩] } ∧
    (∀ c, exec .rbIsempty (State.resetFor c) =
      .next { State.resetFor c with reslog := [⟨(State.resetFor c).issuer, 1#16⟩] }) ∧
    (∀ b t, s.issuer = .prod → isFull s = true → exec (.rbPut b) s = .next t →
      exec .rbIsempty t = .next { t with reslog := t.reslog ++ [⟨.prod, 1#16⟩] })

/-- R106: RB.ISFULL, for any agent: 1 when advancing `wr` by one would equal `rd`, else 0; nothing else changes; with
N = 2 the buffer is full with one byte, and with wr = MASK exactly when rd = 0. Its word is 0x32000000. -/
def Obligations.IsFullReads : Prop :=
  ∀ (s : State) (a : Agent), (a = .cons → s.cfg.rxPath = .direct) →
    agentStep (.issue a 0x32000000#32) s = exec .rbIsfull { s with issuer := a } ∧
    (s.rd = (s.wr + 1#16) &&& s.cfg.mask →
      exec .rbIsfull s = .next { s with reslog := s.reslog ++ [⟨s.issuer, 1#16⟩] }) ∧
    (s.rd ≠ (s.wr + 1#16) &&& s.cfg.mask →
      exec .rbIsfull s = .next { s with reslog := s.reslog ++ [⟨s.issuer, 0#16⟩] }) ∧
    (s.cfg.ok = true → s.rd ≤ s.cfg.mask → s.wr ≤ s.cfg.mask →
      (s.cfg.depth = 2 → (isFull s = true ↔ (buffered s).length = 1)) ∧
      (s.wr = s.cfg.mask → (isFull s = true ↔ s.rd = 0#16)))

/-- R107: RB.SLOTS, for any agent: MASK − ((wr − rd) mod N), which is N − 1 less the bytes buffered, in 0 .. N − 1; nothing
else changes (the spec's own decision D5). Its word is 0x33000000. -/
def Obligations.SlotsReads : Prop :=
  ∀ (s : State) (a : Agent), (a = .cons → s.cfg.rxPath = .direct) → s.cfg.ok = true → s.rd ≤ s.cfg.mask →
    s.wr ≤ s.cfg.mask →
    ∃ v : HWord, v.toNat = s.cfg.depth - 1 - (s.wr.toNat + s.cfg.depth - s.rd.toNat) % s.cfg.depth ∧
      exec .rbSlots s = .next { s with reslog := s.reslog ++ [⟨s.issuer, v⟩] } ∧
      agentStep (.issue a 0x33000000#32) s = exec .rbSlots { s with issuer := a }

/-- R109, one operation at a time: a put that raises no fault appends its byte to the buffered bytes; a get, and a
VIA_RB receive, take the first of them. -/
def Obligations.FifoPerOperation : Prop :=
  ∀ (s t : State) (b : Byte), s.cfg.ok = true → s.rd ≤ s.cfg.mask → s.wr ≤ s.cfg.mask →
    (s.issuer = .prod → isFull s = false → exec (.rbPut b) s = .next t → buffered t = buffered s ++ [some b]) ∧
    (s.issuer = .cons → s.cfg.rxPath = .direct → isEmpty s = false → exec .rbGet s = .next t →
      buffered s = s.rbMem.read s.rd.toNat :: buffered t) ∧
    (s.cfg.rxPath = .viaRb → rxTake s = .byte b t → buffered s = s.rbMem.read s.rd.toNat :: buffered t ∧
      ∀ v, s.rbMem.read s.rd.toNat = some v → b = v)

/-- R109: over any sequence of puts and gets that raises neither ring fault, the gets return the bytes buffered at the start
and then the bytes put, in that order. -/
def Obligations.FifoOverRuns : Prop :=
  ∀ (ops : List (Option Byte)) (s t : State), s.cfg.ok = true → s.cfg.rxPath = .direct →
    s.rd ≤ s.cfg.mask → s.wr ≤ s.cfg.mask → (∀ v ∈ buffered s, v.isSome) →
    ringRun ops s = .next t → t.faults.has .rbPutFull = false → t.faults.has .rbGetEmpty = false →
    ∃ got : List Byte,
      buffered s ++ (ops.filterMap id).map some = got.map some ++ buffered t ∧
      t.reslog.filter (fun r => decide (r.agent = .cons)) =
        s.reslog.filter (fun r => decide (r.agent = .cons)) ++ got.map (fun v => ⟨.cons, v.zeroExtend 16⟩)

/-- R82, R244: an operation issued by an agent that does not own its port raises F_PORT alone, changes no other state and
returns 0; RB.GET when VIA_RB does so for every agent (the spec's own decision D9). -/
def Obligations.PortViolations : Prop :=
  ∀ (i : Instr) (p : Port) (s : State), portOf i = some p → i.wf s.cfg.rxPath = true →
    ((p = .producer ∧ s.issuer ≠ .prod) ∨ (p = .consumer ∧ (s.issuer ≠ .cons ∨ s.cfg.rxPath = .viaRb)) ∨
      (p = .control ∧ s.issuer ≠ .caller)) →
    exec i s = .next { s with faults := s.faults.add .port, reslog := s.reslog ++ [⟨s.issuer, 0#16⟩] }

/-! ### The framer's control operations -/

/-- R152, R159: FR.QC, for CALLER: accepted when IDLE, with BUSY 1, RESULT NONE and both valid bits 0; ignored with F_FR_BUSY
when a request is in flight (the spec's own decisions D18 and D22). -/
def Obligations.QueryAccepted : Prop :=
  ∀ s : State, s.issuer = .caller →
    (s.fsm = .idle →
      ∃ t, exec .frQc s = .next t ∧ t.fsm = .qcTx 0 ∧ t.result = .none ∧ t.lastOp = .queryCount ∧
        t.countValid = false ∧ t.originValid = false ∧ statWord t = 0x0001#16 ∧
        t.idx = s.idx ∧ t.count = s.count ∧ t.ox = s.ox ∧ t.oy = s.oy ∧ t.faults = s.faults ∧
        t.reslog = s.reslog ++ [⟨.caller, 0#16⟩] ∧
        sameRing s t ∧ sameTile s t ∧ sameLink s t ∧ sameModel s t ∧ t.draws = s.draws) ∧
    (s.fsm ≠ .idle →
      exec .frQc s = .next { s with
        faults := s.faults.add .frBusy
        reslog := s.reslog ++ [⟨.caller, 0#16⟩] })

/-- R153, R159: FR.TILE, for CALLER, with every index: accepted when IDLE, the index latched; ignored with F_FR_BUSY, the
index unchanged, when a request is in flight (the spec's own decisions D18 and D22). -/
def Obligations.TileAccepted : Prop :=
  ∀ (s : State) (i : HWord), s.issuer = .caller →
    (s.fsm = .idle →
      ∃ t, exec (.frTile i) s = .next t ∧ t.idx = some i ∧ t.fsm = .rtTx 0 ∧ t.result = .none ∧
        t.lastOp = .requestTile ∧ t.countValid = false ∧ t.originValid = false ∧ statWord t = 0x0009#16 ∧
        t.count = s.count ∧ t.ox = s.ox ∧ t.oy = s.oy ∧ t.faults = s.faults ∧
        t.reslog = s.reslog ++ [⟨.caller, 0#16⟩] ∧
        sameRing s t ∧ sameTile s t ∧ sameLink s t ∧ sameModel s t ∧ t.draws = s.draws) ∧
    (s.fsm ≠ .idle →
      exec (.frTile i) s = .next { s with
        faults := s.faults.add .frBusy
        reslog := s.reslog ++ [⟨.caller, 0#16⟩] })

/-- R37, R156: FR.STAT, for CALLER: the status word, field by field at its place, bits 15:6 zero; nothing else changes (the
spec's own decision D22). -/
def Obligations.StatReads : Prop :=
  ∀ s : State, s.issuer = .caller →
    ∃ v : HWord, exec .frStat s = .next { s with reslog := s.reslog ++ [⟨.caller, v⟩] } ∧
      v.toNat = (if s.fsm = .idle then 0 else 1) +
        2 * (match s.result with | .none => 0 | .ok => 1 | .transferAborted => 2 | .displayWriteError => 3) +
        8 * (match s.lastOp with | .queryCount => 0 | .requestTile => 1) +
        16 * (if s.countValid then 1 else 0) + 32 * (if s.originValid then 1 else 0)

/-- R157: FR.COUNT, for CALLER: the count when valid; when not, F_UNDEF_READ and a free value (log entry 5); no block state
but the fault set changes. A valid count with an unwritten byte, which the invariant rules out, is returned with that byte
free (log entry 6; the spec's own decision D22). -/
def Obligations.CountReads : Prop :=
  ∀ s : State, s.issuer = .caller →
    ∃ t v, exec .frCount s = .next t ∧ t.reslog = s.reslog ++ [⟨.caller, v⟩] ∧
      (s.countValid = true → t.faults = s.faults ∧
        ∀ l h, s.count = ⟨some l, some h⟩ → v.toNat = l.toNat + 256 * h.toNat ∧ t.draws = s.draws) ∧
      (s.countValid = false → t.faults = s.faults.add .undefRead ∧ v = Config.draw16 s.draws ∧
        t.draws = s.draws + 1) ∧
      sameRing s t ∧ sameTile s t ∧ sameRequest s t ∧ sameResults s t ∧ sameLink s t ∧ sameModel s t

/-- R158: FR.ORIGIN, for CALLER: oy in 15:8 and ox in 7:0 when valid; when not, F_UNDEF_READ and a free value (log entry
5); no block state but the fault set changes (log entry 6 for an unwritten byte; the spec's own decision D22). -/
def Obligations.OriginReads : Prop :=
  ∀ s : State, s.issuer = .caller →
    ∃ t v, exec .frOrigin s = .next t ∧ t.reslog = s.reslog ++ [⟨.caller, v⟩] ∧
      (s.originValid = true → t.faults = s.faults ∧
        ∀ x y, s.ox = some x → s.oy = some y → v.toNat = x.toNat + 256 * y.toNat ∧ t.draws = s.draws) ∧
      (s.originValid = false → t.faults = s.faults.add .undefRead ∧ v = Config.draw16 s.draws ∧
        t.draws = s.draws + 1) ∧
      sameRing s t ∧ sameTile s t ∧ sameRequest s t ∧ sameResults s t ∧ sameLink s t ∧ sameModel s t

/-! ### The framer's wire patterns -/

/-- R145, R154: the steps QC_TX(0) and QC_TX(1) with the sink ready send 0xFF and then 0x01, and nothing else changes (the
spec's own decision D1). -/
def Obligations.CountFrameSent : Prop :=
  ∀ (s : State) (k : Fin 2), s.fsm = .qcTx k → s.txReady = true →
    ∃ t, exec .getImageCount s = .next t ∧
      t.txlog = s.txlog ++ [if k = 0 then 0xFF#8 else 0x01#8] ∧ t.fsm = (if k = 0 then .qcTx 1 else .qcRx 0) ∧
      t.result = s.result ∧ t.lastOp = s.lastOp ∧ t.idx = s.idx ∧
      t.rxq = s.rxq ∧ t.txReady = s.txReady ∧ t.displog = s.displog ∧ t.faults = s.faults ∧ t.reslog = s.reslog ∧
      sameRing s t ∧ sameTile s t ∧ sameResults s t ∧ sameModel s t ∧ t.draws = s.draws

/-- R87, R146, R155: the steps RT_TX(0) to RT_TX(3) with the sink ready send 0xFF, 0x02, the index's low byte and its high
byte, for every index, verbatim, and nothing else changes (the spec's own decisions D1 and D15). -/
def Obligations.ImageFrameSent : Prop :=
  ∀ (s : State) (i : HWord) (k : Fin 4), s.fsm = .rtTx k → s.txReady = true →
    ∃ t b, exec (.getImage i) s = .next t ∧ t.txlog = s.txlog ++ [b] ∧
      b.toNat = [0xFF, 0x02, i.toNat % 256, i.toNat / 256].getD k.val 0 ∧
      t.fsm = [Fsm.rtTx 1, .rtTx 2, .rtTx 3, .rtHdr 0].getD k.val .idle ∧
      t.result = s.result ∧ t.lastOp = s.lastOp ∧ t.idx = s.idx ∧
      t.rxq = s.rxq ∧ t.txReady = s.txReady ∧ t.displog = s.displog ∧ t.faults = s.faults ∧ t.reslog = s.reslog ∧
      sameRing s t ∧ sameTile s t ∧ sameResults s t ∧ sameModel s t ∧ t.draws = s.draws

/-- R155: the step RT_RDY(m) with the sink ready sends 0xAA and goes on to the chunk's first byte, and nothing else changes
(the spec's own decision D14). -/
def Obligations.ReadySent : Prop :=
  ∀ (s : State) (m : Nat), s.fsm = .rtRdy m → s.txReady = true →
    ∃ t, exec .ready s = .next t ∧ t.txlog = s.txlog ++ [0xAA#8] ∧ t.fsm = .rtPay m 0 ∧
      t.result = s.result ∧ t.lastOp = s.lastOp ∧ t.idx = s.idx ∧
      t.rxq = s.rxq ∧ t.txReady = s.txReady ∧ t.displog = s.displog ∧ t.faults = s.faults ∧ t.reslog = s.reslog ∧
      sameRing s t ∧ sameTile s t ∧ sameResults s t ∧ sameModel s t ∧ t.draws = s.draws

/-- A hold changes nothing (R10, R141, R142, R143): a send with the sink not ready, a receive with nothing to take, and a
wire pattern at which `fsm` does not stand (log entries 7 and 11). -/
def Obligations.HoldsChangeNothing : Prop :=
  ∀ s : State,
    (s.txReady = false → exec .getImageCount s = .next s ∧ (∀ i, exec (.getImage i) s = .next s) ∧
      exec .ready s = .next s) ∧
    (s.fsm.receives = true → s.cfg.rxPath = .direct → s.rxq = [] → framerStep s = .next s) ∧
    (s.fsm.receives = true → s.cfg.rxPath = .viaRb → s.linkErr = false → s.rd = s.wr → framerStep s = .next s) ∧
    ((∀ k, s.fsm ≠ .qcTx k) → exec .getImageCount s = .next s) ∧
    ((∀ k, s.fsm ≠ .rtTx k) → ∀ i, exec (.getImage i) s = .next s) ∧
    ((∀ m, s.fsm ≠ .rtRdy m) → exec .ready s = .next s) ∧
    ((∀ k, s.fsm ≠ .qcRx k) → ∀ r0 r1, exec (.countResp r0 r1) s = .next s) ∧
    ((∀ k, s.fsm ≠ .rtHdr k) → ∀ x y, exec (.tileHdr x y) s = .next s) ∧
    ((∀ m j, s.fsm ≠ .rtPay m j) → ∀ lo hi, exec (.payloadPixel lo hi) s = .next s)

/-- R147, R154, R150: the count response's first byte becomes count[7:0]; its second becomes count[15:8] and finishes the
QueryCount with OK and COUNT_VALID; nothing else changes (the spec's own decisions D1 and D22). -/
def Obligations.CountResponseStored : Prop :=
  ∀ (s : State) (r0 r1 : Byte),
    (s.fsm = .qcRx 0 →
      exec (.countResp r0 r1) s = .next { s with count := ⟨some r0, s.count.hi⟩, fsm := .qcRx 1 }) ∧
    (s.fsm = .qcRx 1 → s.lastOp = .queryCount →
      exec (.countResp r0 r1) s = .next { s with
        count := ⟨s.count.lo, some r1⟩
        result := .ok
        countValid := true
        fsm := .idle })

/-- R148, R155: the tile header's first byte becomes ox, its second oy, after which the first READY is due; nothing else
changes (the spec's own decision D1). -/
def Obligations.HeaderStored : Prop :=
  ∀ (s : State) (x y : Byte),
    (s.fsm = .rtHdr 0 → exec (.tileHdr x y) s = .next { s with ox := some x, fsm := .rtHdr 1 }) ∧
    (s.fsm = .rtHdr 1 → exec (.tileHdr x y) s = .next { s with oy := some y, fsm := .rtRdy 0 })

/-- R149, R155, R88: byte j of chunk m goes to TB[m × CHUNK + j], as byte p mod 2 of its pixel, every other offset and
everything else as before; the next step is the chunk's next byte, else the next chunk's READY, else the render step (the
spec's own decisions D1 and D32). -/
def Obligations.PayloadStored : Prop :=
  ∀ (s : State) (lo hi : Byte) (m j : Nat), s.cfg.ok = true → s.fsm = .rtPay m j → m < s.cfg.nchunk → j < s.cfg.chunk →
    ∃ t, exec (.payloadPixel lo hi) s = .next t ∧
      m * s.cfg.chunk + j < s.cfg.payload ∧
      t.tb.read (m * s.cfg.chunk + j) = some (if (m * s.cfg.chunk + j) % 2 = 0 then lo else hi) ∧
      (∀ a, a ≠ m * s.cfg.chunk + j → t.tb.read a = s.tb.read a) ∧
      (j + 1 < s.cfg.chunk → t.fsm = .rtPay m (j + 1)) ∧
      (j + 1 = s.cfg.chunk → m + 1 < s.cfg.nchunk → t.fsm = .rtRdy (m + 1)) ∧
      (j + 1 = s.cfg.chunk → m + 1 = s.cfg.nchunk → t.fsm = .rtDisp) ∧
      t.result = s.result ∧ t.lastOp = s.lastOp ∧ t.idx = s.idx ∧ t.faults = s.faults ∧ t.reslog = s.reslog ∧
      sameRing s t ∧ sameResults s t ∧ sameLink s t ∧ sameModel s t ∧ t.draws = s.draws

/-- R142: a receive when DIRECT takes the head token in one framer step: it holds while RXQ is empty, removes exactly the
head, stores a byte where the position says and goes on past it, and ends the request at a link error of any kind, in its
place among the bytes (R147 to R149, R151). -/
def Obligations.ReceiveDirect : Prop :=
  ∀ s : State, Inv s → s.cfg.rxPath = .direct → s.fsm.receives = true →
    (s.rxq = [] → framerStep s = .next s) ∧
    (∀ b rest, s.rxq = .byte b :: rest → ∃ t, framerStep s = .next t ∧ t.rxq = rest ∧
      storedAt s.fsm t = some b ∧ t.fsm ≠ s.fsm ∧ t.result ≠ .transferAborted) ∧
    (∀ kind rest, s.rxq = .linkErr kind :: rest → ∃ t, framerStep s = .next t ∧ t.rxq = rest ∧ t.fsm = .idle ∧
      t.result = .transferAborted)

/-- R143: a receive when VIA_RB takes a pending link error before any buffered byte, and clears it; else the byte at `rd`,
advancing `rd` and storing that byte where the position says (R147 to R149); else it holds. It raises no fault code (the
spec's own decisions D11 and D36). The byte of a slot that nothing has written is a free value (log entries 5 and 6). -/
def Obligations.ReceiveViaRb : Prop :=
  ∀ s : State, Inv s → s.cfg.rxPath = .viaRb → s.fsm.receives = true →
    (s.linkErr = true → ∃ t, framerStep s = .next t ∧ t.linkErr = false ∧ t.rd = s.rd ∧ t.wr = s.wr ∧
      t.rbMem = s.rbMem ∧ t.fsm = .idle ∧ t.result = .transferAborted ∧ t.faults = s.faults) ∧
    (s.linkErr = false → s.rd = s.wr → framerStep s = .next s) ∧
    (s.linkErr = false → s.rd ≠ s.wr → ∃ t, framerStep s = .next t ∧ t.linkErr = false ∧
      t.rd = (s.rd + 1#16) &&& s.cfg.mask ∧ t.wr = s.wr ∧ t.rbMem = s.rbMem ∧
      (∀ v, s.rbMem.read s.rd.toNat = some v → storedAt s.fsm t = some v ∧ t.draws = s.draws) ∧
      (s.rbMem.read s.rd.toNat = none →
        storedAt s.fsm t = some (Config.draw8 s.draws 0) ∧ t.draws = s.draws + 1) ∧
      t.fsm ≠ s.fsm ∧ t.result ≠ .transferAborted ∧ t.faults = s.faults)

/-- R151, R144, R247: a link error at any receive ends the request in that step with TRANSFER_ABORTED, both valid bits 0, the
request's data unwritten, no set_block and no further TX byte, and what is queued or buffered stays (the spec's own decision
D17). -/
def Obligations.LinkErrorAborts : Prop :=
  ∀ s : State, Inv s → s.fsm.receives = true →
    ((s.cfg.rxPath = .direct ∧ ∃ kind rest, s.rxq = .linkErr kind :: rest) ∨
      (s.cfg.rxPath = .viaRb ∧ s.linkErr = true)) →
    ∃ t, framerStep s = .next t ∧ t.fsm = .idle ∧ t.result = .transferAborted ∧ t.countValid = false ∧
      t.originValid = false ∧ t.lastOp = s.lastOp ∧ t.idx = s.idx ∧
      (s.lastOp = .queryCount → t.count = ⟨none, none⟩ ∧ t.ox = s.ox ∧ t.oy = s.oy ∧ sameTile s t) ∧
      (s.lastOp = .requestTile → t.ox = none ∧ t.oy = none ∧ (∀ a, t.tb.read a = none) ∧ t.count = s.count) ∧
      t.rxq = s.rxq.tail ∧ t.linkErr = false ∧ t.rd = s.rd ∧ t.wr = s.wr ∧
      (∀ a, t.rbMem.read a = s.rbMem.read a) ∧
      t.txlog = s.txlog ∧ t.displog = s.displog ∧ t.txReady = s.txReady ∧ t.faults = s.faults ∧
      t.reslog = s.reslog ∧ sameModel s t ∧ t.draws = s.draws

/-- R216: the render step issues one set_block with the origin, the tile's size and the whole pixel sequence in order,
PENDING, and goes to RT_WAIT; nothing else changes. -/
def Obligations.RenderIssuesBlock : Prop :=
  ∀ (s : State) (x y : Byte) (pay : Nat → Byte), s.cfg.ok = true → s.fsm = .rtDisp → s.ox = some x → s.oy = some y →
    (∀ p, p < s.cfg.payload → s.tb.read p = some (pay p)) →
    ∃ b : BlockWrite, framerStep s = .next { s with displog := s.displog ++ [b], fsm := .rtWait } ∧
      b.x.toNat = x.toNat ∧ b.y.toNat = y.toNat ∧ b.w.toNat = s.cfg.tileW ∧ b.h.toNat = s.cfg.tileH ∧
      b.answer = .pending ∧ b.px.length = s.cfg.tileW * s.cfg.tileH ∧
      ∀ i, i < s.cfg.tileW * s.cfg.tileH →
        ∃ px : HWord, b.px[i]? = some px ∧ px.toNat = (pay (2 * i)).toNat + 256 * (pay (2 * i + 1)).toNat

/-- R216, R150, R220: at RT_WAIT the framer holds while the last answer is PENDING; on Ok it finishes with OK, on Err with
DISPLAY_WRITE_ERROR, the origin valid either way, and the link and the ring buffer are untouched (the spec's own decisions
D22 and D35). -/
def Obligations.WaitForDisplay : Prop :=
  ∀ (s : State) (l : List BlockWrite) (b : BlockWrite), s.fsm = .rtWait → s.lastOp = .requestTile →
    s.displog = l ++ [b] →
    (b.answer = .pending → framerStep s = .next s) ∧
    (b.answer = .ok → framerStep s = .next { s with result := .ok, originValid := true, fsm := .idle }) ∧
    (b.answer = .err →
      framerStep s = .next { s with result := .displayWriteError, originValid := true, fsm := .idle })

/-! ### The pixel converter and the mapper -/

/-- R190: LE16 as an unsigned number, for every two bytes. -/
def Obligations.PixelDecode : Prop :=
  (∀ b0 b1 : Byte, (le16 b0 b1).toNat = b0.toNat + 256 * b1.toNat ∧ (le16 b0 b1).toNat < 2 ^ 16) ∧
  le16 0x00#8 0x00#8 = 0x0000#16 ∧ le16 0xFF#8 0xFF#8 = 0xFFFF#16 ∧ le16 0x34#8 0x12#8 = 0x1234#16

/-- R193, R195: the pixel sequence of a payload has NPIX pixels, pixel i made of bytes 2i and 2i+1, so each payload byte is
byte p mod 2 of pixel p / 2 and of no other; and a pixel's two bytes give it back. -/
def Obligations.PixelSequence : Prop :=
  (∀ (n : Nat) (pay : Nat → Byte), (pixelSeq n pay).length = n ∧
    (∀ i, i < n → ∃ px : HWord, (pixelSeq n pay)[i]? = some px ∧
      px.toNat = (pay (2 * i)).toNat + 256 * (pay (2 * i + 1)).toNat) ∧
    ∀ p, p < 2 * n → ∃ px : HWord, (pixelSeq n pay)[p / 2]? = some px ∧
      pay p = if p % 2 = 0 then (pixelBytes px).1 else (pixelBytes px).2) ∧
  ∀ px : HWord, le16 (pixelBytes px).1 (pixelBytes px).2 = px

/-- R210: pixel i sits at row i / TILE_W and column i mod TILE_W, i = row × TILE_W + column, and both maps are bijections
between 0 .. NPIX−1 and the W × H grid. -/
def Obligations.MapperBijection : Prop :=
  ∀ c : Params, c.ok = true →
    (∀ r k i, pixelIndex c r k = some i ↔ r < c.tileH ∧ k < c.tileW ∧ i = r * c.tileW + k) ∧
    (∀ i r k, pixelRowCol c i = some (r, k) ↔ i < c.npix ∧ r = i / c.tileW ∧ k = i % c.tileW) ∧
    (∀ i r k, pixelRowCol c i = some (r, k) ↔ pixelIndex c r k = some i)

/-- R211, R212, R213: the bytes of pixel (r, k), inside TB; the pixel as the sequence R193 has it; its display position, which
fits 16 bits and is neither wrapped nor clipped; and no address out of range (the spec's own decision D19 for the position,
its own derivation for the range). -/
def Obligations.MapperAddresses : Prop :=
  (∀ (c : Params) (r k : Nat) (ox oy : Byte), ¬(r < c.tileH ∧ k < c.tileW) →
    pixelIndex c r k = none ∧ pixelLo c r k = none ∧ pixelHi c r k = none ∧ displayPos c ox oy r k = none) ∧
  (∀ (c : Params) (i : Nat), c.npix ≤ i → pixelRowCol c i = none) ∧
  ∀ (c : Params) (r k : Nat) (pay : Nat → Byte) (ox oy : Byte), c.ok = true → r < c.tileH → k < c.tileW →
    pixelLo c r k = some (2 * (r * c.tileW + k)) ∧ pixelHi c r k = some (2 * (r * c.tileW + k) + 1) ∧
    2 * (r * c.tileW + k) + 1 < c.payload ∧
    (pixelSeq c.npix pay)[r * c.tileW + k]? =
      some (le16 (pay (2 * (r * c.tileW + k))) (pay (2 * (r * c.tileW + k) + 1))) ∧
    displayPos c ox oy r k = some (ox.toNat + k, oy.toNat + r) ∧
    ox.toNat + k ≤ 255 + c.tileW - 1 ∧ oy.toNat + r ≤ 255 + c.tileH - 1 ∧
    ox.toNat + k < 2 ^ 16 ∧ oy.toNat + r < 2 ^ 16

/-! ### What every step keeps -/

/-- The block's invariant: cursors in range, storages canonical and in their bounds, the sequence state one of R33's, the
status rules R34, R35, R156, R242, what the current request has received, and one unanswered set_block at most. -/
def Obligations.StepKeepsInvariant : Prop := ∀ s t : State, Inv s → step s = .next t → Inv t

/-- R161, R261: TXLOG is the bytes of the requests that ended and of the request in flight, and no other byte. -/
def Obligations.StepKeepsTxTrace : Prop :=
  ∀ s t : State, Inv s → TxTrace s → step s = .next t → TxTrace t

/-- R113: as long as neither ring fault has been raised, every buffered slot was written. -/
def Obligations.StepKeepsRingWritten : Prop :=
  ∀ s t : State, Inv s → RingWritten s → step s = .next t → RingWritten t

/-- R243: from a state that meets the invariant no step stops the block; what is refused is a step of the agent that does
not exist when VIA_RB (R245, log entry 16). -/
def Obligations.NothingStopsTheBlock : Prop :=
  ∀ s : State, Inv s →
    (∃ t, step s = .next t) ∨
      (s.cfg.rxPath = .viaRb ∧ step s = .refused .noSuchAgent ∧ ∃ w, (nextAgentStep s).1 = .issue .cons w)

/-- R243, R244, R246: after any agent's step a fault code is in the set exactly if it was before, or its cause held at this
step; so codes are sticky, and only the first check that applies raises its code (the spec's own decisions D6, D9 and D36). -/
def Obligations.FaultsHaveTheirCauses : Prop :=
  ∀ (s t : State) (e : AgentStep) (f : FaultCode), agentStep e s = .next t →
    (t.faults.has f = true ↔ s.faults.has f = true ∨ faultCause s e f)

/-- R40: who writes each element, over every step of every agent; the parameters are never written (R6, R71). -/
def Obligations.AccessSummary : Prop :=
  ∀ (s t : State) (e : AgentStep), agentStep e s = .next t →
    t.cfg = s.cfg ∧
    (((∀ a, t.rbMem.read a = s.rbMem.read a) ∧ t.wr = s.wr) ∨ ∃ b, issues e .prod (.rbPut b)) ∧
    (t.rd = s.rd ∨ (issues e .cons .rbGet ∧ s.cfg.rxPath = .direct) ∨ (e = .framer ∧ s.cfg.rxPath = .viaRb)) ∧
    (t.linkErr = s.linkErr ∨ (s.cfg.rxPath = .viaRb ∧ (issues e .prod .rbPerr ∨ e = .framer))) ∧
    ((t.fsm = s.fsm ∧ t.result = s.result ∧ t.countValid = s.countValid ∧ t.originValid = s.originValid) ∨
      e = .framer ∨ issues e .caller .frQc ∨ ∃ i, issues e .caller (.frTile i)) ∧
    (t.lastOp = s.lastOp ∨ issues e .caller .frQc ∨ ∃ i, issues e .caller (.frTile i)) ∧
    (t.idx = s.idx ∨ ∃ i, issues e .caller (.frTile i)) ∧
    ((t.count = s.count ∧ t.ox = s.ox ∧ t.oy = s.oy ∧ sameTile s t) ∨ e = .framer) ∧
    (t.rxq = s.rxq ∨ (s.cfg.rxPath = .direct ∧ (e = .framer ∨ ∃ tok, e = .hostSend tok))) ∧
    (t.txlog = s.txlog ∨ e = .framer) ∧
    (t.displog = s.displog ∨ e = .framer ∨ ∃ ok, e = .dispAnswer ok) ∧
    (t.txReady = s.txReady ∨ ∃ r, e = .hostSink r) ∧
    (t.reslog = s.reslog ∨ ∃ a w, e = .issue a w)

/-- R73, R114: once FULL reads 0 it stays 0 until the producer's own put, and once HAS_DATA reads 1 it stays 1 until the
consumer's own get, whatever step any agent takes; the steps shut out are the two misuses themselves, a get on an empty
and a put on a full buffer, whose effect is R112 and R111. -/
def Obligations.CheckThenAct : Prop :=
  ∀ (s t : State) (e : AgentStep), Inv s → agentStep e s = .next t →
    (isFull s = false → (∀ b, ¬ issues e .prod (.rbPut b)) → (issues e .cons .rbGet → isEmpty s = false) →
      isFull t = false ∧ slots s ≤ slots t) ∧
    (hasData s = true → ¬ issues e .cons .rbGet → ¬(e = .framer ∧ s.cfg.rxPath = .viaRb) →
      (∀ b, issues e .prod (.rbPut b) → isFull s = false) → hasData t = true)

/-- R217, R219: a set_block is issued by the render step alone, which appends one call and leaves the earlier ones as they
are; and the framer comes to the render step only with the last byte of its payload. -/
def Obligations.BlockWriteOncePerTransfer : Prop :=
  ∀ (s t : State) (e : AgentStep), Inv s → agentStep e s = .next t →
    (t.displog.length = s.displog.length ∨
      (e = .framer ∧ s.fsm = .rtDisp ∧ t.fsm = .rtWait ∧ ∃ b, t.displog = s.displog ++ [b] ∧ b.answer = .pending)) ∧
    (s.fsm = .rtDisp → e = .framer → t.displog.length = s.displog.length + 1) ∧
    (t.fsm = .rtDisp → s.fsm = .rtDisp ∨
      (e = .framer ∧ ∃ m j, s.fsm = .rtPay m j ∧ m * s.cfg.chunk + j + 1 = s.cfg.payload ∧
        tileWritten t s.cfg.payload))

/-! ### Whole requests -/

/-- R145, R147, R154, R287: a QueryCount that receives r0 and r1 sends exactly FF 01 and ends with OK and the count
r0 + 256·r1, and the run is good if it was; what else is observed is as before. When DIRECT the bytes come from RXQ; when
VIA_RB from the ring buffer, whether buffered before or put by PROD in the meantime, and what follows them stays
buffered. -/
def Obligations.QueryCountTransfer : Prop :=
  ∀ (s : State) (r0 r1 : Byte),
    (∀ rest : List Token,
      s.cfg.rxPath = .direct → s.txReady = true → s.rxq = .byte r0 :: .byte r1 :: rest →
      ∃ t, framerRun 4 (acceptQueryCount s) = .next t ∧ countArrived r0 r1 s t ∧ t.rxq = rest ∧
        observe t = { observe s with
          result := .ok
          count := ⟨some r0, some r1⟩
          countValid := true
          originValid := false
          txlog := s.txlog ++ [0xFF#8, 0x01#8] }) ∧
    (∀ held feed rest : List Byte, Relays s held feed [r0, r1] rest →
      ∃ t, relayRun 4 feed (acceptQueryCount s) = .next t ∧ countArrived r0 r1 s t ∧ keeps t rest ∧ t.rxq = s.rxq ∧
        observe t = { observe s with
          result := .ok
          count := ⟨some r0, some r1⟩
          countValid := true
          originValid := false
          txlog := s.txlog ++ [0xFF#8, 0x01#8]
          rd := t.rd
          wr := t.wr
          buffered := rest.map some
          returned := s.reslog ++ List.replicate feed.length ⟨.prod, 0#16⟩ })

/-- R155, R161, R216, L1-4: for every block, index, origin and payload, a RequestTile whose whole response arrives sends its
frame and NCHUNK ready bytes, takes exactly the response, fills TB with the payload and issues one set_block with the tile's
pixels. When DIRECT the response comes from RXQ; when VIA_RB from the ring buffer, whether buffered before or put by PROD
in the meantime, and what follows it stays buffered. -/
def Obligations.CompleteTransfer : Prop :=
  ∀ (s : State) (i : HWord) (x y : Byte) (pay : List Byte), pay.length = s.cfg.payload →
    (∀ rest : List Token, s.cfg.ok = true → s.cfg.rxPath = .direct → s.txReady = true →
      s.rxq = .byte x :: .byte y :: (pay.map Token.byte ++ rest) →
      ∃ t, framerRun (4 + 2 + s.cfg.nchunk + s.cfg.payload + 1) (acceptRequestTile i s) = .next t ∧
        tileArrived i x y pay s t ∧ t.rxq = rest ∧ sameRing s t ∧ t.reslog = s.reslog) ∧
    (∀ held feed rest : List Byte, Relays s held feed (x :: y :: pay) rest →
      ∃ t, relayRun (4 + 2 + s.cfg.nchunk + s.cfg.payload + 1) feed (acceptRequestTile i s) = .next t ∧
        tileArrived i x y pay s t ∧ t.rxq = s.rxq ∧ keeps t rest ∧
        t.reslog = s.reslog ++ List.replicate feed.length ⟨.prod, 0#16⟩)

/-- R151, R161, R219, L1-7: for every block, a RequestTile that meets a link error after q < PAYLOAD payload bytes ends with
TRANSFER_ABORTED: the frame and the ready bytes of the chunks begun were sent, no set_block was issued, the data is
unwritten, and what the host sent after the error is still queued (DIRECT), or what is buffered when PROD issues RB.PERR
is still buffered (VIA_RB). -/
def Obligations.AbortedTransfer : Prop :=
  ∀ (s : State) (i : HWord) (x y : Byte) (pay : List Byte), pay.length < s.cfg.payload →
    (∀ (kind : LinkKind) (rest : List Token), s.cfg.ok = true → s.cfg.rxPath = .direct → s.txReady = true →
      s.rxq = .byte x :: .byte y :: (pay.map Token.byte ++ .linkErr kind :: rest) →
      ∃ t, framerRun (4 + 2 + (pay.length / s.cfg.chunk + 1) + pay.length + 1) (acceptRequestTile i s) = .next t ∧
        tileAborted i pay.length s t ∧ t.rxq = rest ∧ sameRing s t ∧ t.reslog = s.reslog) ∧
    (∀ held feed rest : List Byte, Relays s held feed (x :: y :: pay) rest →
      ∃ t, thenRun (thenRun
          (relayRun (4 + 2 + (pay.length / s.cfg.chunk + 1) + pay.length) feed (acceptRequestTile i s))
          prodPerr) framerStep = .next t ∧
        tileAborted i pay.length s t ∧ t.rxq = s.rxq ∧ keeps t rest ∧
        t.reslog = s.reslog ++ List.replicate (feed.length + 1) ⟨.prod, 0#16⟩)
end

