-- ==== Sys2Proof/Laws/Memory.lean ====
section
/-! SUPPORT. The laws of the storages: what a write does to every read, and that it keeps the canonical form. -/

namespace Sys2Proof.Machine

@[simp] theorem Memory.read_nil (a : Nat) : Memory.read [] a = none := rfl

@[simp] theorem Memory.wf_nil : Memory.wf [] = true := rfl

@[simp] theorem Memory.within_nil (n : Nat) : Memory.within n [] = true := rfl

theorem Memory.read_cons (a' : Nat) (b' : Byte) (m : Memory) (a : Nat) :
    Memory.read ((a', b') :: m) a = if a = a' then some b' else Memory.read m a := rfl

/-- Reading what was just written. -/
@[simp] theorem Memory.read_write_same (m : Memory) (a : Nat) (b : Byte) : (m.write a b).read a = some b := by
  induction m with
  | nil => simp [Memory.write, Memory.read_cons]
  | cons cell rest ih =>
    obtain ⟨a', b'⟩ := cell
    simp only [Memory.write]
    split
    · simp [Memory.read_cons]
    · split
      · simp [Memory.read_cons]
      · rename_i h; simp [Memory.read_cons, h, ih]

/-- A write leaves every other index alone. -/
theorem Memory.read_write_other (m : Memory) {a x : Nat} (b : Byte) (h : x ≠ a) :
    (m.write a b).read x = m.read x := by
  induction m with
  | nil => simp [Memory.write, Memory.read_cons, h]
  | cons cell rest ih =>
    obtain ⟨a', b'⟩ := cell
    simp only [Memory.write]
    split
    · simp [Memory.read_cons, h]
    · split
      · rename_i h'; subst h'; simp [Memory.read_cons, h]
      · simp [Memory.read_cons, ih]

/-- What one write does to every read. -/
theorem Memory.read_write (m : Memory) (a x : Nat) (b : Byte) :
    (m.write a b).read x = if x = a then some b else m.read x := by
  split
  · rename_i h; subst h; simp
  · rename_i h; exact Memory.read_write_other m b h

/-- The canonical form of a storage with a first cell: what follows is canonical and starts above it. -/
theorem Memory.wf_cons (a : Nat) (b : Byte) (m : Memory) :
    Memory.wf ((a, b) :: m) = true ↔ (∀ cell, m.head? = some cell → a < cell.1) ∧ Memory.wf m = true := by
  cases m with
  | nil => simp [Memory.wf]
  | cons cell rest => obtain ⟨a', b'⟩ := cell; simp [Memory.wf]

/-- The first cell after a write is the written one or the first one before. -/
theorem Memory.head_write (m : Memory) (a : Nat) (b : Byte) (cell : Host.Cell)
    (h : (m.write a b).head? = some cell) : cell.1 = a ∨ m.head? = some cell := by
  cases m with
  | nil => simp [Memory.write] at h; simp [← h]
  | cons c rest =>
    obtain ⟨a', b'⟩ := c
    simp only [Memory.write] at h
    split at h
    · simp at h; simp [← h]
    · split at h
      · simp at h; simp [← h]
      · right; simpa using h

/-- A write keeps the canonical form. -/
theorem Memory.write_wf (m : Memory) (a : Nat) (b : Byte) (h : m.wf = true) : (m.write a b).wf = true := by
  induction m with
  | nil => simp [Memory.write, Memory.wf]
  | cons cell rest ih =>
    obtain ⟨a', b'⟩ := cell
    have hr := (Memory.wf_cons a' b' rest).1 h
    simp only [Memory.write]
    split
    · rename_i hlt; exact (Memory.wf_cons _ _ _).2 ⟨by simpa using hlt, h⟩
    · split
      · rename_i heq; subst heq; exact (Memory.wf_cons _ _ _).2 hr
      · rename_i hlt hne
        refine (Memory.wf_cons _ _ _).2 ⟨fun c hc => ?_, ih hr.2⟩
        rcases Memory.head_write rest a b c hc with h1 | h1
        · omega
        · exact hr.1 c h1

/-- A write inside a storage stays inside it. -/
theorem Memory.write_within (m : Memory) {a n : Nat} (b : Byte) (ha : a < n) (h : m.within n = true) :
    (m.write a b).within n = true := by
  induction m with
  | nil => simpa [Memory.write, Memory.within] using ha
  | cons cell rest ih =>
    obtain ⟨a', b'⟩ := cell
    simp only [Memory.within, List.all_cons, Bool.and_eq_true, decide_eq_true_eq] at h ih ⊢
    simp only [Memory.write]
    split
    · simp [ha, h]
    · split
      · simp [ha, h]
      · simp [h, ih h.2]

/-- Reset's storages have the canonical form. -/
theorem State.resetFor_memory_wf (c : Params) :
    (State.resetFor c).rbMem.wf = true ∧ (State.resetFor c).tb.wf = true := ⟨rfl, rfl⟩

end Sys2Proof.Machine
end

