-- ==== Sys2Proof/Laws/State.lean ====
section
/-! SUPPORT. What each named update of the state does to each field: one lemma per update and field, so that no proof
unfolds a record update. -/

namespace Sys2Proof.Machine

/-! ### raiseFault -/

@[simp] theorem raiseFault_cfg (f : FaultCode) (s : State) : (raiseFault f s).cfg = s.cfg := rfl
@[simp] theorem raiseFault_rbMem (f : FaultCode) (s : State) : (raiseFault f s).rbMem = s.rbMem := rfl
@[simp] theorem raiseFault_rd (f : FaultCode) (s : State) : (raiseFault f s).rd = s.rd := rfl
@[simp] theorem raiseFault_wr (f : FaultCode) (s : State) : (raiseFault f s).wr = s.wr := rfl
@[simp] theorem raiseFault_linkErr (f : FaultCode) (s : State) : (raiseFault f s).linkErr = s.linkErr := rfl
@[simp] theorem raiseFault_fsm (f : FaultCode) (s : State) : (raiseFault f s).fsm = s.fsm := rfl
@[simp] theorem raiseFault_result (f : FaultCode) (s : State) : (raiseFault f s).result = s.result := rfl
@[simp] theorem raiseFault_lastOp (f : FaultCode) (s : State) : (raiseFault f s).lastOp = s.lastOp := rfl
@[simp] theorem raiseFault_idx (f : FaultCode) (s : State) : (raiseFault f s).idx = s.idx := rfl
@[simp] theorem raiseFault_count (f : FaultCode) (s : State) : (raiseFault f s).count = s.count := rfl
@[simp] theorem raiseFault_countValid (f : FaultCode) (s : State) : (raiseFault f s).countValid = s.countValid := rfl
@[simp] theorem raiseFault_ox (f : FaultCode) (s : State) : (raiseFault f s).ox = s.ox := rfl
@[simp] theorem raiseFault_oy (f : FaultCode) (s : State) : (raiseFault f s).oy = s.oy := rfl
@[simp] theorem raiseFault_originValid (f : FaultCode) (s : State) : (raiseFault f s).originValid = s.originValid := rfl
@[simp] theorem raiseFault_tb (f : FaultCode) (s : State) : (raiseFault f s).tb = s.tb := rfl
@[simp] theorem raiseFault_faults (f : FaultCode) (s : State) : (raiseFault f s).faults = s.faults.add f := rfl
@[simp] theorem raiseFault_rxq (f : FaultCode) (s : State) : (raiseFault f s).rxq = s.rxq := rfl
@[simp] theorem raiseFault_txlog (f : FaultCode) (s : State) : (raiseFault f s).txlog = s.txlog := rfl
@[simp] theorem raiseFault_displog (f : FaultCode) (s : State) : (raiseFault f s).displog = s.displog := rfl
@[simp] theorem raiseFault_txReady (f : FaultCode) (s : State) : (raiseFault f s).txReady = s.txReady := rfl
@[simp] theorem raiseFault_reslog (f : FaultCode) (s : State) : (raiseFault f s).reslog = s.reslog := rfl
@[simp] theorem raiseFault_issuer (f : FaultCode) (s : State) : (raiseFault f s).issuer = s.issuer := rfl
@[simp] theorem raiseFault_agenda (f : FaultCode) (s : State) : (raiseFault f s).agenda = s.agenda := rfl
@[simp] theorem raiseFault_turn (f : FaultCode) (s : State) : (raiseFault f s).turn = s.turn := rfl
@[simp] theorem raiseFault_draws (f : FaultCode) (s : State) : (raiseFault f s).draws = s.draws := rfl

/-! ### answer -/

@[simp] theorem answer_cfg (r : HWord) (s : State) : (answer r s).cfg = s.cfg := rfl
@[simp] theorem answer_rbMem (r : HWord) (s : State) : (answer r s).rbMem = s.rbMem := rfl
@[simp] theorem answer_rd (r : HWord) (s : State) : (answer r s).rd = s.rd := rfl
@[simp] theorem answer_wr (r : HWord) (s : State) : (answer r s).wr = s.wr := rfl
@[simp] theorem answer_linkErr (r : HWord) (s : State) : (answer r s).linkErr = s.linkErr := rfl
@[simp] theorem answer_fsm (r : HWord) (s : State) : (answer r s).fsm = s.fsm := rfl
@[simp] theorem answer_result (r : HWord) (s : State) : (answer r s).result = s.result := rfl
@[simp] theorem answer_lastOp (r : HWord) (s : State) : (answer r s).lastOp = s.lastOp := rfl
@[simp] theorem answer_idx (r : HWord) (s : State) : (answer r s).idx = s.idx := rfl
@[simp] theorem answer_count (r : HWord) (s : State) : (answer r s).count = s.count := rfl
@[simp] theorem answer_countValid (r : HWord) (s : State) : (answer r s).countValid = s.countValid := rfl
@[simp] theorem answer_ox (r : HWord) (s : State) : (answer r s).ox = s.ox := rfl
@[simp] theorem answer_oy (r : HWord) (s : State) : (answer r s).oy = s.oy := rfl
@[simp] theorem answer_originValid (r : HWord) (s : State) : (answer r s).originValid = s.originValid := rfl
@[simp] theorem answer_tb (r : HWord) (s : State) : (answer r s).tb = s.tb := rfl
@[simp] theorem answer_faults (r : HWord) (s : State) : (answer r s).faults = s.faults := rfl
@[simp] theorem answer_rxq (r : HWord) (s : State) : (answer r s).rxq = s.rxq := rfl
@[simp] theorem answer_txlog (r : HWord) (s : State) : (answer r s).txlog = s.txlog := rfl
@[simp] theorem answer_displog (r : HWord) (s : State) : (answer r s).displog = s.displog := rfl
@[simp] theorem answer_txReady (r : HWord) (s : State) : (answer r s).txReady = s.txReady := rfl
@[simp] theorem answer_reslog (r : HWord) (s : State) : (answer r s).reslog = s.reslog ++ [⟨s.issuer, r⟩] := rfl
@[simp] theorem answer_issuer (r : HWord) (s : State) : (answer r s).issuer = s.issuer := rfl
@[simp] theorem answer_agenda (r : HWord) (s : State) : (answer r s).agenda = s.agenda := rfl
@[simp] theorem answer_turn (r : HWord) (s : State) : (answer r s).turn = s.turn := rfl
@[simp] theorem answer_draws (r : HWord) (s : State) : (answer r s).draws = s.draws := rfl

/-! ### rejectWord -/

@[simp] theorem rejectWord_cfg (f : FaultCode) (s : State) : (rejectWord f s).cfg = s.cfg := rfl
@[simp] theorem rejectWord_rbMem (f : FaultCode) (s : State) : (rejectWord f s).rbMem = s.rbMem := rfl
@[simp] theorem rejectWord_rd (f : FaultCode) (s : State) : (rejectWord f s).rd = s.rd := rfl
@[simp] theorem rejectWord_wr (f : FaultCode) (s : State) : (rejectWord f s).wr = s.wr := rfl
@[simp] theorem rejectWord_linkErr (f : FaultCode) (s : State) : (rejectWord f s).linkErr = s.linkErr := rfl
@[simp] theorem rejectWord_fsm (f : FaultCode) (s : State) : (rejectWord f s).fsm = s.fsm := rfl
@[simp] theorem rejectWord_result (f : FaultCode) (s : State) : (rejectWord f s).result = s.result := rfl
@[simp] theorem rejectWord_lastOp (f : FaultCode) (s : State) : (rejectWord f s).lastOp = s.lastOp := rfl
@[simp] theorem rejectWord_idx (f : FaultCode) (s : State) : (rejectWord f s).idx = s.idx := rfl
@[simp] theorem rejectWord_count (f : FaultCode) (s : State) : (rejectWord f s).count = s.count := rfl
@[simp] theorem rejectWord_countValid (f : FaultCode) (s : State) : (rejectWord f s).countValid = s.countValid := rfl
@[simp] theorem rejectWord_ox (f : FaultCode) (s : State) : (rejectWord f s).ox = s.ox := rfl
@[simp] theorem rejectWord_oy (f : FaultCode) (s : State) : (rejectWord f s).oy = s.oy := rfl
@[simp] theorem rejectWord_originValid (f : FaultCode) (s : State) : (rejectWord f s).originValid = s.originValid := rfl
@[simp] theorem rejectWord_tb (f : FaultCode) (s : State) : (rejectWord f s).tb = s.tb := rfl
@[simp] theorem rejectWord_faults (f : FaultCode) (s : State) : (rejectWord f s).faults = s.faults.add f := rfl
@[simp] theorem rejectWord_rxq (f : FaultCode) (s : State) : (rejectWord f s).rxq = s.rxq := rfl
@[simp] theorem rejectWord_txlog (f : FaultCode) (s : State) : (rejectWord f s).txlog = s.txlog := rfl
@[simp] theorem rejectWord_displog (f : FaultCode) (s : State) : (rejectWord f s).displog = s.displog := rfl
@[simp] theorem rejectWord_txReady (f : FaultCode) (s : State) : (rejectWord f s).txReady = s.txReady := rfl
@[simp] theorem rejectWord_reslog (f : FaultCode) (s : State) : (rejectWord f s).reslog = s.reslog ++ [⟨s.issuer, 0#16⟩] := rfl
@[simp] theorem rejectWord_issuer (f : FaultCode) (s : State) : (rejectWord f s).issuer = s.issuer := rfl
@[simp] theorem rejectWord_agenda (f : FaultCode) (s : State) : (rejectWord f s).agenda = s.agenda := rfl
@[simp] theorem rejectWord_turn (f : FaultCode) (s : State) : (rejectWord f s).turn = s.turn := rfl
@[simp] theorem rejectWord_draws (f : FaultCode) (s : State) : (rejectWord f s).draws = s.draws := rfl

/-! ### countDraw -/

@[simp] theorem countDraw_cfg (s : State) : (countDraw s).cfg = s.cfg := rfl
@[simp] theorem countDraw_rbMem (s : State) : (countDraw s).rbMem = s.rbMem := rfl
@[simp] theorem countDraw_rd (s : State) : (countDraw s).rd = s.rd := rfl
@[simp] theorem countDraw_wr (s : State) : (countDraw s).wr = s.wr := rfl
@[simp] theorem countDraw_linkErr (s : State) : (countDraw s).linkErr = s.linkErr := rfl
@[simp] theorem countDraw_fsm (s : State) : (countDraw s).fsm = s.fsm := rfl
@[simp] theorem countDraw_result (s : State) : (countDraw s).result = s.result := rfl
@[simp] theorem countDraw_lastOp (s : State) : (countDraw s).lastOp = s.lastOp := rfl
@[simp] theorem countDraw_idx (s : State) : (countDraw s).idx = s.idx := rfl
@[simp] theorem countDraw_count (s : State) : (countDraw s).count = s.count := rfl
@[simp] theorem countDraw_countValid (s : State) : (countDraw s).countValid = s.countValid := rfl
@[simp] theorem countDraw_ox (s : State) : (countDraw s).ox = s.ox := rfl
@[simp] theorem countDraw_oy (s : State) : (countDraw s).oy = s.oy := rfl
@[simp] theorem countDraw_originValid (s : State) : (countDraw s).originValid = s.originValid := rfl
@[simp] theorem countDraw_tb (s : State) : (countDraw s).tb = s.tb := rfl
@[simp] theorem countDraw_faults (s : State) : (countDraw s).faults = s.faults := rfl
@[simp] theorem countDraw_rxq (s : State) : (countDraw s).rxq = s.rxq := rfl
@[simp] theorem countDraw_txlog (s : State) : (countDraw s).txlog = s.txlog := rfl
@[simp] theorem countDraw_displog (s : State) : (countDraw s).displog = s.displog := rfl
@[simp] theorem countDraw_txReady (s : State) : (countDraw s).txReady = s.txReady := rfl
@[simp] theorem countDraw_reslog (s : State) : (countDraw s).reslog = s.reslog := rfl
@[simp] theorem countDraw_issuer (s : State) : (countDraw s).issuer = s.issuer := rfl
@[simp] theorem countDraw_agenda (s : State) : (countDraw s).agenda = s.agenda := rfl
@[simp] theorem countDraw_turn (s : State) : (countDraw s).turn = s.turn := rfl
@[simp] theorem countDraw_draws (s : State) : (countDraw s).draws = s.draws + 1 := rfl

/-! ### ringStore -/

@[simp] theorem ringStore_cfg (b : Byte) (s : State) : (ringStore b s).cfg = s.cfg := rfl
@[simp] theorem ringStore_rbMem (b : Byte) (s : State) : (ringStore b s).rbMem = s.rbMem.write s.wr.toNat b := rfl
@[simp] theorem ringStore_rd (b : Byte) (s : State) : (ringStore b s).rd = s.rd := rfl
@[simp] theorem ringStore_wr (b : Byte) (s : State) : (ringStore b s).wr = advance s.cfg s.wr := rfl
@[simp] theorem ringStore_linkErr (b : Byte) (s : State) : (ringStore b s).linkErr = s.linkErr := rfl
@[simp] theorem ringStore_fsm (b : Byte) (s : State) : (ringStore b s).fsm = s.fsm := rfl
@[simp] theorem ringStore_result (b : Byte) (s : State) : (ringStore b s).result = s.result := rfl
@[simp] theorem ringStore_lastOp (b : Byte) (s : State) : (ringStore b s).lastOp = s.lastOp := rfl
@[simp] theorem ringStore_idx (b : Byte) (s : State) : (ringStore b s).idx = s.idx := rfl
@[simp] theorem ringStore_count (b : Byte) (s : State) : (ringStore b s).count = s.count := rfl
@[simp] theorem ringStore_countValid (b : Byte) (s : State) : (ringStore b s).countValid = s.countValid := rfl
@[simp] theorem ringStore_ox (b : Byte) (s : State) : (ringStore b s).ox = s.ox := rfl
@[simp] theorem ringStore_oy (b : Byte) (s : State) : (ringStore b s).oy = s.oy := rfl
@[simp] theorem ringStore_originValid (b : Byte) (s : State) : (ringStore b s).originValid = s.originValid := rfl
@[simp] theorem ringStore_tb (b : Byte) (s : State) : (ringStore b s).tb = s.tb := rfl
@[simp] theorem ringStore_faults (b : Byte) (s : State) : (ringStore b s).faults = s.faults := rfl
@[simp] theorem ringStore_rxq (b : Byte) (s : State) : (ringStore b s).rxq = s.rxq := rfl
@[simp] theorem ringStore_txlog (b : Byte) (s : State) : (ringStore b s).txlog = s.txlog := rfl
@[simp] theorem ringStore_displog (b : Byte) (s : State) : (ringStore b s).displog = s.displog := rfl
@[simp] theorem ringStore_txReady (b : Byte) (s : State) : (ringStore b s).txReady = s.txReady := rfl
@[simp] theorem ringStore_reslog (b : Byte) (s : State) : (ringStore b s).reslog = s.reslog := rfl
@[simp] theorem ringStore_issuer (b : Byte) (s : State) : (ringStore b s).issuer = s.issuer := rfl
@[simp] theorem ringStore_agenda (b : Byte) (s : State) : (ringStore b s).agenda = s.agenda := rfl
@[simp] theorem ringStore_turn (b : Byte) (s : State) : (ringStore b s).turn = s.turn := rfl
@[simp] theorem ringStore_draws (b : Byte) (s : State) : (ringStore b s).draws = s.draws := rfl

/-! ### ringDrop -/

@[simp] theorem ringDrop_cfg (s : State) : (ringDrop s).cfg = s.cfg := rfl
@[simp] theorem ringDrop_rbMem (s : State) : (ringDrop s).rbMem = s.rbMem := rfl
@[simp] theorem ringDrop_rd (s : State) : (ringDrop s).rd = advance s.cfg s.rd := rfl
@[simp] theorem ringDrop_wr (s : State) : (ringDrop s).wr = s.wr := rfl
@[simp] theorem ringDrop_linkErr (s : State) : (ringDrop s).linkErr = s.linkErr := rfl
@[simp] theorem ringDrop_fsm (s : State) : (ringDrop s).fsm = s.fsm := rfl
@[simp] theorem ringDrop_result (s : State) : (ringDrop s).result = s.result := rfl
@[simp] theorem ringDrop_lastOp (s : State) : (ringDrop s).lastOp = s.lastOp := rfl
@[simp] theorem ringDrop_idx (s : State) : (ringDrop s).idx = s.idx := rfl
@[simp] theorem ringDrop_count (s : State) : (ringDrop s).count = s.count := rfl
@[simp] theorem ringDrop_countValid (s : State) : (ringDrop s).countValid = s.countValid := rfl
@[simp] theorem ringDrop_ox (s : State) : (ringDrop s).ox = s.ox := rfl
@[simp] theorem ringDrop_oy (s : State) : (ringDrop s).oy = s.oy := rfl
@[simp] theorem ringDrop_originValid (s : State) : (ringDrop s).originValid = s.originValid := rfl
@[simp] theorem ringDrop_tb (s : State) : (ringDrop s).tb = s.tb := rfl
@[simp] theorem ringDrop_faults (s : State) : (ringDrop s).faults = s.faults := rfl
@[simp] theorem ringDrop_rxq (s : State) : (ringDrop s).rxq = s.rxq := rfl
@[simp] theorem ringDrop_txlog (s : State) : (ringDrop s).txlog = s.txlog := rfl
@[simp] theorem ringDrop_displog (s : State) : (ringDrop s).displog = s.displog := rfl
@[simp] theorem ringDrop_txReady (s : State) : (ringDrop s).txReady = s.txReady := rfl
@[simp] theorem ringDrop_reslog (s : State) : (ringDrop s).reslog = s.reslog := rfl
@[simp] theorem ringDrop_issuer (s : State) : (ringDrop s).issuer = s.issuer := rfl
@[simp] theorem ringDrop_agenda (s : State) : (ringDrop s).agenda = s.agenda := rfl
@[simp] theorem ringDrop_turn (s : State) : (ringDrop s).turn = s.turn := rfl
@[simp] theorem ringDrop_draws (s : State) : (ringDrop s).draws = s.draws := rfl

/-! ### finish -/

@[simp] theorem finish_cfg (r : OpResult) (s : State) : (finish r s).cfg = s.cfg := rfl
@[simp] theorem finish_rbMem (r : OpResult) (s : State) : (finish r s).rbMem = s.rbMem := rfl
@[simp] theorem finish_rd (r : OpResult) (s : State) : (finish r s).rd = s.rd := rfl
@[simp] theorem finish_wr (r : OpResult) (s : State) : (finish r s).wr = s.wr := rfl
@[simp] theorem finish_linkErr (r : OpResult) (s : State) : (finish r s).linkErr = s.linkErr := rfl
@[simp] theorem finish_fsm (r : OpResult) (s : State) : (finish r s).fsm = .idle := rfl
@[simp] theorem finish_result (r : OpResult) (s : State) : (finish r s).result = r := rfl
@[simp] theorem finish_lastOp (r : OpResult) (s : State) : (finish r s).lastOp = s.lastOp := rfl
@[simp] theorem finish_idx (r : OpResult) (s : State) : (finish r s).idx = s.idx := rfl
@[simp] theorem finish_count (r : OpResult) (s : State) : (finish r s).count = s.count := rfl
@[simp] theorem finish_countValid (r : OpResult) (s : State) : (finish r s).countValid = (s.countValid || decide (s.lastOp = .queryCount ∧ r = .ok)) := rfl
@[simp] theorem finish_ox (r : OpResult) (s : State) : (finish r s).ox = s.ox := rfl
@[simp] theorem finish_oy (r : OpResult) (s : State) : (finish r s).oy = s.oy := rfl
@[simp] theorem finish_originValid (r : OpResult) (s : State) : (finish r s).originValid = (s.originValid || decide (s.lastOp = .requestTile ∧ (r = .ok ∨ r = .displayWriteError))) := rfl
@[simp] theorem finish_tb (r : OpResult) (s : State) : (finish r s).tb = s.tb := rfl
@[simp] theorem finish_faults (r : OpResult) (s : State) : (finish r s).faults = s.faults := rfl
@[simp] theorem finish_rxq (r : OpResult) (s : State) : (finish r s).rxq = s.rxq := rfl
@[simp] theorem finish_txlog (r : OpResult) (s : State) : (finish r s).txlog = s.txlog := rfl
@[simp] theorem finish_displog (r : OpResult) (s : State) : (finish r s).displog = s.displog := rfl
@[simp] theorem finish_txReady (r : OpResult) (s : State) : (finish r s).txReady = s.txReady := rfl
@[simp] theorem finish_reslog (r : OpResult) (s : State) : (finish r s).reslog = s.reslog := rfl
@[simp] theorem finish_issuer (r : OpResult) (s : State) : (finish r s).issuer = s.issuer := rfl
@[simp] theorem finish_agenda (r : OpResult) (s : State) : (finish r s).agenda = s.agenda := rfl
@[simp] theorem finish_turn (r : OpResult) (s : State) : (finish r s).turn = s.turn := rfl
@[simp] theorem finish_draws (r : OpResult) (s : State) : (finish r s).draws = s.draws := rfl

/-! ### discard -/

@[simp] theorem discard_cfg (s : State) : (discard s).cfg = s.cfg := rfl
@[simp] theorem discard_rbMem (s : State) : (discard s).rbMem = s.rbMem := rfl
@[simp] theorem discard_rd (s : State) : (discard s).rd = s.rd := rfl
@[simp] theorem discard_wr (s : State) : (discard s).wr = s.wr := rfl
@[simp] theorem discard_linkErr (s : State) : (discard s).linkErr = s.linkErr := rfl
@[simp] theorem discard_fsm (s : State) : (discard s).fsm = s.fsm := rfl
@[simp] theorem discard_result (s : State) : (discard s).result = s.result := rfl
@[simp] theorem discard_lastOp (s : State) : (discard s).lastOp = s.lastOp := rfl
@[simp] theorem discard_idx (s : State) : (discard s).idx = s.idx := rfl
@[simp] theorem discard_count (s : State) : (discard s).count = if s.lastOp = .queryCount then ⟨none, none⟩ else s.count := rfl
@[simp] theorem discard_countValid (s : State) : (discard s).countValid = s.countValid := rfl
@[simp] theorem discard_ox (s : State) : (discard s).ox = if s.lastOp = .requestTile then none else s.ox := rfl
@[simp] theorem discard_oy (s : State) : (discard s).oy = if s.lastOp = .requestTile then none else s.oy := rfl
@[simp] theorem discard_originValid (s : State) : (discard s).originValid = s.originValid := rfl
@[simp] theorem discard_tb (s : State) : (discard s).tb = if s.lastOp = .requestTile then [] else s.tb := rfl
@[simp] theorem discard_faults (s : State) : (discard s).faults = s.faults := rfl
@[simp] theorem discard_rxq (s : State) : (discard s).rxq = s.rxq := rfl
@[simp] theorem discard_txlog (s : State) : (discard s).txlog = s.txlog := rfl
@[simp] theorem discard_displog (s : State) : (discard s).displog = s.displog := rfl
@[simp] theorem discard_txReady (s : State) : (discard s).txReady = s.txReady := rfl
@[simp] theorem discard_reslog (s : State) : (discard s).reslog = s.reslog := rfl
@[simp] theorem discard_issuer (s : State) : (discard s).issuer = s.issuer := rfl
@[simp] theorem discard_agenda (s : State) : (discard s).agenda = s.agenda := rfl
@[simp] theorem discard_turn (s : State) : (discard s).turn = s.turn := rfl
@[simp] theorem discard_draws (s : State) : (discard s).draws = s.draws := rfl

/-! ### abort -/

@[simp] theorem abort_cfg (s : State) : (abort s).cfg = s.cfg := by simp [abort]
@[simp] theorem abort_rbMem (s : State) : (abort s).rbMem = s.rbMem := by simp [abort]
@[simp] theorem abort_rd (s : State) : (abort s).rd = s.rd := by simp [abort]
@[simp] theorem abort_wr (s : State) : (abort s).wr = s.wr := by simp [abort]
@[simp] theorem abort_linkErr (s : State) : (abort s).linkErr = s.linkErr := by simp [abort]
@[simp] theorem abort_fsm (s : State) : (abort s).fsm = .idle := by simp [abort]
@[simp] theorem abort_result (s : State) : (abort s).result = .transferAborted := by simp [abort]
@[simp] theorem abort_lastOp (s : State) : (abort s).lastOp = s.lastOp := by simp [abort]
@[simp] theorem abort_idx (s : State) : (abort s).idx = s.idx := by simp [abort]
@[simp] theorem abort_count (s : State) : (abort s).count = if s.lastOp = .queryCount then ⟨none, none⟩ else s.count := by simp [abort]
@[simp] theorem abort_countValid (s : State) : (abort s).countValid = s.countValid := by simp [abort]
@[simp] theorem abort_ox (s : State) : (abort s).ox = if s.lastOp = .requestTile then none else s.ox := by simp [abort]
@[simp] theorem abort_oy (s : State) : (abort s).oy = if s.lastOp = .requestTile then none else s.oy := by simp [abort]
@[simp] theorem abort_originValid (s : State) : (abort s).originValid = s.originValid := by simp [abort]
@[simp] theorem abort_tb (s : State) : (abort s).tb = if s.lastOp = .requestTile then [] else s.tb := by simp [abort]
@[simp] theorem abort_faults (s : State) : (abort s).faults = s.faults := by simp [abort]
@[simp] theorem abort_rxq (s : State) : (abort s).rxq = s.rxq := by simp [abort]
@[simp] theorem abort_txlog (s : State) : (abort s).txlog = s.txlog := by simp [abort]
@[simp] theorem abort_displog (s : State) : (abort s).displog = s.displog := by simp [abort]
@[simp] theorem abort_txReady (s : State) : (abort s).txReady = s.txReady := by simp [abort]
@[simp] theorem abort_reslog (s : State) : (abort s).reslog = s.reslog := by simp [abort]
@[simp] theorem abort_issuer (s : State) : (abort s).issuer = s.issuer := by simp [abort]
@[simp] theorem abort_agenda (s : State) : (abort s).agenda = s.agenda := by simp [abort]
@[simp] theorem abort_turn (s : State) : (abort s).turn = s.turn := by simp [abort]
@[simp] theorem abort_draws (s : State) : (abort s).draws = s.draws := by simp [abort]

/-! ### acceptQueryCount -/

@[simp] theorem acceptQueryCount_cfg (s : State) : (acceptQueryCount s).cfg = s.cfg := rfl
@[simp] theorem acceptQueryCount_rbMem (s : State) : (acceptQueryCount s).rbMem = s.rbMem := rfl
@[simp] theorem acceptQueryCount_rd (s : State) : (acceptQueryCount s).rd = s.rd := rfl
@[simp] theorem acceptQueryCount_wr (s : State) : (acceptQueryCount s).wr = s.wr := rfl
@[simp] theorem acceptQueryCount_linkErr (s : State) : (acceptQueryCount s).linkErr = s.linkErr := rfl
@[simp] theorem acceptQueryCount_fsm (s : State) : (acceptQueryCount s).fsm = .qcTx 0 := rfl
@[simp] theorem acceptQueryCount_result (s : State) : (acceptQueryCount s).result = .none := rfl
@[simp] theorem acceptQueryCount_lastOp (s : State) : (acceptQueryCount s).lastOp = .queryCount := rfl
@[simp] theorem acceptQueryCount_idx (s : State) : (acceptQueryCount s).idx = s.idx := rfl
@[simp] theorem acceptQueryCount_count (s : State) : (acceptQueryCount s).count = s.count := rfl
@[simp] theorem acceptQueryCount_countValid (s : State) : (acceptQueryCount s).countValid = false := rfl
@[simp] theorem acceptQueryCount_ox (s : State) : (acceptQueryCount s).ox = s.ox := rfl
@[simp] theorem acceptQueryCount_oy (s : State) : (acceptQueryCount s).oy = s.oy := rfl
@[simp] theorem acceptQueryCount_originValid (s : State) : (acceptQueryCount s).originValid = false := rfl
@[simp] theorem acceptQueryCount_tb (s : State) : (acceptQueryCount s).tb = s.tb := rfl
@[simp] theorem acceptQueryCount_faults (s : State) : (acceptQueryCount s).faults = s.faults := rfl
@[simp] theorem acceptQueryCount_rxq (s : State) : (acceptQueryCount s).rxq = s.rxq := rfl
@[simp] theorem acceptQueryCount_txlog (s : State) : (acceptQueryCount s).txlog = s.txlog := rfl
@[simp] theorem acceptQueryCount_displog (s : State) : (acceptQueryCount s).displog = s.displog := rfl
@[simp] theorem acceptQueryCount_txReady (s : State) : (acceptQueryCount s).txReady = s.txReady := rfl
@[simp] theorem acceptQueryCount_reslog (s : State) : (acceptQueryCount s).reslog = s.reslog := rfl
@[simp] theorem acceptQueryCount_issuer (s : State) : (acceptQueryCount s).issuer = s.issuer := rfl
@[simp] theorem acceptQueryCount_agenda (s : State) : (acceptQueryCount s).agenda = s.agenda := rfl
@[simp] theorem acceptQueryCount_turn (s : State) : (acceptQueryCount s).turn = s.turn := rfl
@[simp] theorem acceptQueryCount_draws (s : State) : (acceptQueryCount s).draws = s.draws := rfl

/-! ### acceptRequestTile -/

@[simp] theorem acceptRequestTile_cfg (i : HWord) (s : State) : (acceptRequestTile i s).cfg = s.cfg := rfl
@[simp] theorem acceptRequestTile_rbMem (i : HWord) (s : State) : (acceptRequestTile i s).rbMem = s.rbMem := rfl
@[simp] theorem acceptRequestTile_rd (i : HWord) (s : State) : (acceptRequestTile i s).rd = s.rd := rfl
@[simp] theorem acceptRequestTile_wr (i : HWord) (s : State) : (acceptRequestTile i s).wr = s.wr := rfl
@[simp] theorem acceptRequestTile_linkErr (i : HWord) (s : State) : (acceptRequestTile i s).linkErr = s.linkErr := rfl
@[simp] theorem acceptRequestTile_fsm (i : HWord) (s : State) : (acceptRequestTile i s).fsm = .rtTx 0 := rfl
@[simp] theorem acceptRequestTile_result (i : HWord) (s : State) : (acceptRequestTile i s).result = .none := rfl
@[simp] theorem acceptRequestTile_lastOp (i : HWord) (s : State) : (acceptRequestTile i s).lastOp = .requestTile := rfl
@[simp] theorem acceptRequestTile_idx (i : HWord) (s : State) : (acceptRequestTile i s).idx = some i := rfl
@[simp] theorem acceptRequestTile_count (i : HWord) (s : State) : (acceptRequestTile i s).count = s.count := rfl
@[simp] theorem acceptRequestTile_countValid (i : HWord) (s : State) : (acceptRequestTile i s).countValid = false := rfl
@[simp] theorem acceptRequestTile_ox (i : HWord) (s : State) : (acceptRequestTile i s).ox = s.ox := rfl
@[simp] theorem acceptRequestTile_oy (i : HWord) (s : State) : (acceptRequestTile i s).oy = s.oy := rfl
@[simp] theorem acceptRequestTile_originValid (i : HWord) (s : State) : (acceptRequestTile i s).originValid = false := rfl
@[simp] theorem acceptRequestTile_tb (i : HWord) (s : State) : (acceptRequestTile i s).tb = s.tb := rfl
@[simp] theorem acceptRequestTile_faults (i : HWord) (s : State) : (acceptRequestTile i s).faults = s.faults := rfl
@[simp] theorem acceptRequestTile_rxq (i : HWord) (s : State) : (acceptRequestTile i s).rxq = s.rxq := rfl
@[simp] theorem acceptRequestTile_txlog (i : HWord) (s : State) : (acceptRequestTile i s).txlog = s.txlog := rfl
@[simp] theorem acceptRequestTile_displog (i : HWord) (s : State) : (acceptRequestTile i s).displog = s.displog := rfl
@[simp] theorem acceptRequestTile_txReady (i : HWord) (s : State) : (acceptRequestTile i s).txReady = s.txReady := rfl
@[simp] theorem acceptRequestTile_reslog (i : HWord) (s : State) : (acceptRequestTile i s).reslog = s.reslog := rfl
@[simp] theorem acceptRequestTile_issuer (i : HWord) (s : State) : (acceptRequestTile i s).issuer = s.issuer := rfl
@[simp] theorem acceptRequestTile_agenda (i : HWord) (s : State) : (acceptRequestTile i s).agenda = s.agenda := rfl
@[simp] theorem acceptRequestTile_turn (i : HWord) (s : State) : (acceptRequestTile i s).turn = s.turn := rfl
@[simp] theorem acceptRequestTile_draws (i : HWord) (s : State) : (acceptRequestTile i s).draws = s.draws := rfl

/-! ### renderStep -/

@[simp] theorem renderStep_cfg (s : State) : (renderStep s).cfg = s.cfg := rfl
@[simp] theorem renderStep_rbMem (s : State) : (renderStep s).rbMem = s.rbMem := rfl
@[simp] theorem renderStep_rd (s : State) : (renderStep s).rd = s.rd := rfl
@[simp] theorem renderStep_wr (s : State) : (renderStep s).wr = s.wr := rfl
@[simp] theorem renderStep_linkErr (s : State) : (renderStep s).linkErr = s.linkErr := rfl
@[simp] theorem renderStep_fsm (s : State) : (renderStep s).fsm = .rtWait := rfl
@[simp] theorem renderStep_result (s : State) : (renderStep s).result = s.result := rfl
@[simp] theorem renderStep_lastOp (s : State) : (renderStep s).lastOp = s.lastOp := rfl
@[simp] theorem renderStep_idx (s : State) : (renderStep s).idx = s.idx := rfl
@[simp] theorem renderStep_count (s : State) : (renderStep s).count = s.count := rfl
@[simp] theorem renderStep_countValid (s : State) : (renderStep s).countValid = s.countValid := rfl
@[simp] theorem renderStep_ox (s : State) : (renderStep s).ox = s.ox := rfl
@[simp] theorem renderStep_oy (s : State) : (renderStep s).oy = s.oy := rfl
@[simp] theorem renderStep_originValid (s : State) : (renderStep s).originValid = s.originValid := rfl
@[simp] theorem renderStep_tb (s : State) : (renderStep s).tb = s.tb := rfl
@[simp] theorem renderStep_faults (s : State) : (renderStep s).faults = s.faults := rfl
@[simp] theorem renderStep_rxq (s : State) : (renderStep s).rxq = s.rxq := rfl
@[simp] theorem renderStep_txlog (s : State) : (renderStep s).txlog = s.txlog := rfl
@[simp] theorem renderStep_displog (s : State) : (renderStep s).displog = s.displog ++ [blockWrite s] := rfl
@[simp] theorem renderStep_txReady (s : State) : (renderStep s).txReady = s.txReady := rfl
@[simp] theorem renderStep_reslog (s : State) : (renderStep s).reslog = s.reslog := rfl
@[simp] theorem renderStep_issuer (s : State) : (renderStep s).issuer = s.issuer := rfl
@[simp] theorem renderStep_agenda (s : State) : (renderStep s).agenda = s.agenda := rfl
@[simp] theorem renderStep_turn (s : State) : (renderStep s).turn = s.turn := rfl
@[simp] theorem renderStep_draws (s : State) : (renderStep s).draws = if renderWritten s then s.draws else s.draws + 1 := rfl

/-! ### displayAnswer -/

@[simp] theorem displayAnswer_cfg (a : Bool) (s : State) : (displayAnswer a s).cfg = s.cfg := rfl
@[simp] theorem displayAnswer_rbMem (a : Bool) (s : State) : (displayAnswer a s).rbMem = s.rbMem := rfl
@[simp] theorem displayAnswer_rd (a : Bool) (s : State) : (displayAnswer a s).rd = s.rd := rfl
@[simp] theorem displayAnswer_wr (a : Bool) (s : State) : (displayAnswer a s).wr = s.wr := rfl
@[simp] theorem displayAnswer_linkErr (a : Bool) (s : State) : (displayAnswer a s).linkErr = s.linkErr := rfl
@[simp] theorem displayAnswer_fsm (a : Bool) (s : State) : (displayAnswer a s).fsm = s.fsm := rfl
@[simp] theorem displayAnswer_result (a : Bool) (s : State) : (displayAnswer a s).result = s.result := rfl
@[simp] theorem displayAnswer_lastOp (a : Bool) (s : State) : (displayAnswer a s).lastOp = s.lastOp := rfl
@[simp] theorem displayAnswer_idx (a : Bool) (s : State) : (displayAnswer a s).idx = s.idx := rfl
@[simp] theorem displayAnswer_count (a : Bool) (s : State) : (displayAnswer a s).count = s.count := rfl
@[simp] theorem displayAnswer_countValid (a : Bool) (s : State) : (displayAnswer a s).countValid = s.countValid := rfl
@[simp] theorem displayAnswer_ox (a : Bool) (s : State) : (displayAnswer a s).ox = s.ox := rfl
@[simp] theorem displayAnswer_oy (a : Bool) (s : State) : (displayAnswer a s).oy = s.oy := rfl
@[simp] theorem displayAnswer_originValid (a : Bool) (s : State) : (displayAnswer a s).originValid = s.originValid := rfl
@[simp] theorem displayAnswer_tb (a : Bool) (s : State) : (displayAnswer a s).tb = s.tb := rfl
@[simp] theorem displayAnswer_faults (a : Bool) (s : State) : (displayAnswer a s).faults = s.faults := rfl
@[simp] theorem displayAnswer_rxq (a : Bool) (s : State) : (displayAnswer a s).rxq = s.rxq := rfl
@[simp] theorem displayAnswer_txlog (a : Bool) (s : State) : (displayAnswer a s).txlog = s.txlog := rfl
@[simp] theorem displayAnswer_displog (a : Bool) (s : State) : (displayAnswer a s).displog = settleLast (if a then .ok else .err) s.displog := rfl
@[simp] theorem displayAnswer_txReady (a : Bool) (s : State) : (displayAnswer a s).txReady = s.txReady := rfl
@[simp] theorem displayAnswer_reslog (a : Bool) (s : State) : (displayAnswer a s).reslog = s.reslog := rfl
@[simp] theorem displayAnswer_issuer (a : Bool) (s : State) : (displayAnswer a s).issuer = s.issuer := rfl
@[simp] theorem displayAnswer_agenda (a : Bool) (s : State) : (displayAnswer a s).agenda = s.agenda := rfl
@[simp] theorem displayAnswer_turn (a : Bool) (s : State) : (displayAnswer a s).turn = s.turn := rfl
@[simp] theorem displayAnswer_draws (a : Bool) (s : State) : (displayAnswer a s).draws = s.draws := rfl

/-! ### undefinedRead -/

@[simp] theorem undefinedRead_cfg (s : State) : (undefinedRead s).cfg = s.cfg := rfl
@[simp] theorem undefinedRead_rbMem (s : State) : (undefinedRead s).rbMem = s.rbMem := rfl
@[simp] theorem undefinedRead_rd (s : State) : (undefinedRead s).rd = s.rd := rfl
@[simp] theorem undefinedRead_wr (s : State) : (undefinedRead s).wr = s.wr := rfl
@[simp] theorem undefinedRead_linkErr (s : State) : (undefinedRead s).linkErr = s.linkErr := rfl
@[simp] theorem undefinedRead_fsm (s : State) : (undefinedRead s).fsm = s.fsm := rfl
@[simp] theorem undefinedRead_result (s : State) : (undefinedRead s).result = s.result := rfl
@[simp] theorem undefinedRead_lastOp (s : State) : (undefinedRead s).lastOp = s.lastOp := rfl
@[simp] theorem undefinedRead_idx (s : State) : (undefinedRead s).idx = s.idx := rfl
@[simp] theorem undefinedRead_count (s : State) : (undefinedRead s).count = s.count := rfl
@[simp] theorem undefinedRead_countValid (s : State) : (undefinedRead s).countValid = s.countValid := rfl
@[simp] theorem undefinedRead_ox (s : State) : (undefinedRead s).ox = s.ox := rfl
@[simp] theorem undefinedRead_oy (s : State) : (undefinedRead s).oy = s.oy := rfl
@[simp] theorem undefinedRead_originValid (s : State) : (undefinedRead s).originValid = s.originValid := rfl
@[simp] theorem undefinedRead_tb (s : State) : (undefinedRead s).tb = s.tb := rfl
@[simp] theorem undefinedRead_faults (s : State) : (undefinedRead s).faults = s.faults.add .undefRead := rfl
@[simp] theorem undefinedRead_rxq (s : State) : (undefinedRead s).rxq = s.rxq := rfl
@[simp] theorem undefinedRead_txlog (s : State) : (undefinedRead s).txlog = s.txlog := rfl
@[simp] theorem undefinedRead_displog (s : State) : (undefinedRead s).displog = s.displog := rfl
@[simp] theorem undefinedRead_txReady (s : State) : (undefinedRead s).txReady = s.txReady := rfl
@[simp] theorem undefinedRead_reslog (s : State) : (undefinedRead s).reslog = s.reslog ++ [⟨s.issuer, Config.draw16 s.draws⟩] := rfl
@[simp] theorem undefinedRead_issuer (s : State) : (undefinedRead s).issuer = s.issuer := rfl
@[simp] theorem undefinedRead_agenda (s : State) : (undefinedRead s).agenda = s.agenda := rfl
@[simp] theorem undefinedRead_turn (s : State) : (undefinedRead s).turn = s.turn := rfl
@[simp] theorem undefinedRead_draws (s : State) : (undefinedRead s).draws = s.draws + 1 := rfl

/-! ### placeStep -/

@[simp] theorem placeStep_cfg (e : AgentStep) (s : State) : (placeStep e s).cfg = s.cfg := rfl
@[simp] theorem placeStep_rbMem (e : AgentStep) (s : State) : (placeStep e s).rbMem = s.rbMem := rfl
@[simp] theorem placeStep_rd (e : AgentStep) (s : State) : (placeStep e s).rd = s.rd := rfl
@[simp] theorem placeStep_wr (e : AgentStep) (s : State) : (placeStep e s).wr = s.wr := rfl
@[simp] theorem placeStep_linkErr (e : AgentStep) (s : State) : (placeStep e s).linkErr = s.linkErr := rfl
@[simp] theorem placeStep_fsm (e : AgentStep) (s : State) : (placeStep e s).fsm = s.fsm := rfl
@[simp] theorem placeStep_result (e : AgentStep) (s : State) : (placeStep e s).result = s.result := rfl
@[simp] theorem placeStep_lastOp (e : AgentStep) (s : State) : (placeStep e s).lastOp = s.lastOp := rfl
@[simp] theorem placeStep_idx (e : AgentStep) (s : State) : (placeStep e s).idx = s.idx := rfl
@[simp] theorem placeStep_count (e : AgentStep) (s : State) : (placeStep e s).count = s.count := rfl
@[simp] theorem placeStep_countValid (e : AgentStep) (s : State) : (placeStep e s).countValid = s.countValid := rfl
@[simp] theorem placeStep_ox (e : AgentStep) (s : State) : (placeStep e s).ox = s.ox := rfl
@[simp] theorem placeStep_oy (e : AgentStep) (s : State) : (placeStep e s).oy = s.oy := rfl
@[simp] theorem placeStep_originValid (e : AgentStep) (s : State) : (placeStep e s).originValid = s.originValid := rfl
@[simp] theorem placeStep_tb (e : AgentStep) (s : State) : (placeStep e s).tb = s.tb := rfl
@[simp] theorem placeStep_faults (e : AgentStep) (s : State) : (placeStep e s).faults = s.faults := rfl
@[simp] theorem placeStep_rxq (e : AgentStep) (s : State) : (placeStep e s).rxq = s.rxq := rfl
@[simp] theorem placeStep_txlog (e : AgentStep) (s : State) : (placeStep e s).txlog = s.txlog := rfl
@[simp] theorem placeStep_displog (e : AgentStep) (s : State) : (placeStep e s).displog = s.displog := rfl
@[simp] theorem placeStep_txReady (e : AgentStep) (s : State) : (placeStep e s).txReady = s.txReady := rfl
@[simp] theorem placeStep_reslog (e : AgentStep) (s : State) : (placeStep e s).reslog = s.reslog := rfl
@[simp] theorem placeStep_issuer (e : AgentStep) (s : State) : (placeStep e s).issuer = s.issuer := rfl
@[simp] theorem placeStep_agenda (e : AgentStep) (s : State) : (placeStep e s).agenda = e :: s.agenda := rfl
@[simp] theorem placeStep_turn (e : AgentStep) (s : State) : (placeStep e s).turn = s.turn := rfl
@[simp] theorem placeStep_draws (e : AgentStep) (s : State) : (placeStep e s).draws = s.draws := rfl

/-! ### txSend -/

@[simp] theorem txSend_cfg (b : Byte) (n : Fsm) (s : State) : (txSend b n s).cfg = s.cfg := by unfold txSend; split <;> rfl
@[simp] theorem txSend_rbMem (b : Byte) (n : Fsm) (s : State) : (txSend b n s).rbMem = s.rbMem := by unfold txSend; split <;> rfl
@[simp] theorem txSend_rd (b : Byte) (n : Fsm) (s : State) : (txSend b n s).rd = s.rd := by unfold txSend; split <;> rfl
@[simp] theorem txSend_wr (b : Byte) (n : Fsm) (s : State) : (txSend b n s).wr = s.wr := by unfold txSend; split <;> rfl
@[simp] theorem txSend_linkErr (b : Byte) (n : Fsm) (s : State) : (txSend b n s).linkErr = s.linkErr := by unfold txSend; split <;> rfl
@[simp] theorem txSend_fsm (b : Byte) (n : Fsm) (s : State) : (txSend b n s).fsm = if s.txReady then n else s.fsm := by unfold txSend; split <;> rfl
@[simp] theorem txSend_result (b : Byte) (n : Fsm) (s : State) : (txSend b n s).result = s.result := by unfold txSend; split <;> rfl
@[simp] theorem txSend_lastOp (b : Byte) (n : Fsm) (s : State) : (txSend b n s).lastOp = s.lastOp := by unfold txSend; split <;> rfl
@[simp] theorem txSend_idx (b : Byte) (n : Fsm) (s : State) : (txSend b n s).idx = s.idx := by unfold txSend; split <;> rfl
@[simp] theorem txSend_count (b : Byte) (n : Fsm) (s : State) : (txSend b n s).count = s.count := by unfold txSend; split <;> rfl
@[simp] theorem txSend_countValid (b : Byte) (n : Fsm) (s : State) : (txSend b n s).countValid = s.countValid := by unfold txSend; split <;> rfl
@[simp] theorem txSend_ox (b : Byte) (n : Fsm) (s : State) : (txSend b n s).ox = s.ox := by unfold txSend; split <;> rfl
@[simp] theorem txSend_oy (b : Byte) (n : Fsm) (s : State) : (txSend b n s).oy = s.oy := by unfold txSend; split <;> rfl
@[simp] theorem txSend_originValid (b : Byte) (n : Fsm) (s : State) : (txSend b n s).originValid = s.originValid := by unfold txSend; split <;> rfl
@[simp] theorem txSend_tb (b : Byte) (n : Fsm) (s : State) : (txSend b n s).tb = s.tb := by unfold txSend; split <;> rfl
@[simp] theorem txSend_faults (b : Byte) (n : Fsm) (s : State) : (txSend b n s).faults = s.faults := by unfold txSend; split <;> rfl
@[simp] theorem txSend_rxq (b : Byte) (n : Fsm) (s : State) : (txSend b n s).rxq = s.rxq := by unfold txSend; split <;> rfl
@[simp] theorem txSend_txlog (b : Byte) (n : Fsm) (s : State) : (txSend b n s).txlog = if s.txReady then s.txlog ++ [b] else s.txlog := by unfold txSend; split <;> rfl
@[simp] theorem txSend_displog (b : Byte) (n : Fsm) (s : State) : (txSend b n s).displog = s.displog := by unfold txSend; split <;> rfl
@[simp] theorem txSend_txReady (b : Byte) (n : Fsm) (s : State) : (txSend b n s).txReady = s.txReady := by unfold txSend; split <;> rfl
@[simp] theorem txSend_reslog (b : Byte) (n : Fsm) (s : State) : (txSend b n s).reslog = s.reslog := by unfold txSend; split <;> rfl
@[simp] theorem txSend_issuer (b : Byte) (n : Fsm) (s : State) : (txSend b n s).issuer = s.issuer := by unfold txSend; split <;> rfl
@[simp] theorem txSend_agenda (b : Byte) (n : Fsm) (s : State) : (txSend b n s).agenda = s.agenda := by unfold txSend; split <;> rfl
@[simp] theorem txSend_turn (b : Byte) (n : Fsm) (s : State) : (txSend b n s).turn = s.turn := by unfold txSend; split <;> rfl
@[simp] theorem txSend_draws (b : Byte) (n : Fsm) (s : State) : (txSend b n s).draws = s.draws := by unfold txSend; split <;> rfl

end Sys2Proof.Machine
end

