-- ==== Sys2Proof/Laws/Ops.lean ====
section
/-! SUPPORT. One lemma for each shared operation, saying once everything it can do. -/

namespace Sys2Proof.Machine

/-! ### Cursors -/

/-- MASK as a number (R6). -/
theorem mask_toNat (c : Params) (h : c.log2n ≤ 16) : c.mask.toNat = c.depth - 1 := by
  have hp : c.depth ≤ 2 ^ 16 := Nat.pow_le_pow_right (by decide) h
  have h0 : 0 < c.depth := Nat.pow_pos (by decide)
  simp only [Params.mask, BitVec.toNat_ofNat]
  exact Nat.mod_eq_of_lt (by omega)

/-- `& MASK` is `mod N`, because N is a power of two (R116). -/
theorem and_mask_toNat (c : Params) (h : c.log2n ≤ 16) (v : HWord) : (v &&& c.mask).toNat = v.toNat % c.depth := by
  rw [BitVec.toNat_and, mask_toNat c h]
  exact Nat.and_two_pow_sub_one_eq_mod v.toNat c.log2n

/-- A masked value is a cursor. -/
theorem and_mask_le (c : Params) (v : HWord) : v &&& c.mask ≤ c.mask := by
  rw [BitVec.le_def, BitVec.toNat_and]
  exact Nat.and_le_right

/-- An advanced cursor is a cursor. -/
theorem advance_le (c : Params) (cur : HWord) : advance c cur ≤ c.mask := and_mask_le c _

/-- A cursor names one of the N slots (R60). -/
theorem cursor_lt_depth (c : Params) (h : c.log2n ≤ 16) {cur : HWord} (hc : cur ≤ c.mask) : cur.toNat < c.depth := by
  have h0 : 0 < c.depth := Nat.pow_pos (by decide)
  rw [BitVec.le_def, mask_toNat c h] at hc
  omega

@[simp] theorem slotExists_iff (c : Params) (cur : HWord) : slotExists c cur = true ↔ cur ≤ c.mask := by
  simp [slotExists]

/-! ### Faults -/

@[simp] theorem has_add (f : FaultSet) (a b : FaultCode) : (f.add a).has b = (decide (a = b) || f.has b) := by
  cases a <;> cases b <;> simp [FaultSet.add, FaultSet.has]

/-! ### Ports -/

theorem guardPort_owner {p : Port} {s : State} {body : State → Out} (h : ownsPort s.cfg.rxPath s.issuer p = true) :
    guardPort p s body = body s := by simp [guardPort, h]

theorem guardPort_other {p : Port} {s : State} {body : State → Out} (h : ownsPort s.cfg.rxPath s.issuer p = false) :
    guardPort p s body = .next (rejectWord .port s) := by simp [guardPort, h]

/-- The port check either runs the operation or rejects the word. -/
theorem guardPort_next {p : Port} {s t : State} {body : State → Out} (h : guardPort p s body = .next t) :
    (ownsPort s.cfg.rxPath s.issuer p = true ∧ body s = .next t) ∨
      (ownsPort s.cfg.rxPath s.issuer p = false ∧ t = rejectWord .port s) := by
  unfold guardPort at h
  split at h
  · exact .inl ⟨‹_›, h⟩
  · rename_i hn; cases h; exact .inr ⟨by simpa using hn, rfl⟩

/-! ### Reads -/

/-- A read of the oldest slot changes nothing but the count of draws. -/
theorem ringHead_state (s : State) : (ringHead s).2 = s ∨ (ringHead s).2 = countDraw s := by
  unfold ringHead; split <;> simp

theorem ringHead_written {s : State} {b : Byte} (h : s.rbMem.read s.rd.toNat = some b) : ringHead s = (b, s) := by
  simp [ringHead, h]

/-- A read of the tile index changes nothing but the count of draws. -/
theorem indexOperand_state (s : State) : (indexOperand s).2 = s ∨ (indexOperand s).2 = countDraw s := by
  unfold indexOperand; split <;> simp

theorem indexOperand_written {s : State} {i : HWord} (h : s.idx = some i) : indexOperand s = (i, s) := by
  simp [indexOperand, h]

/-- A read of a 16-bit result changes nothing but the count of draws. -/
theorem pairOperand_state (lo hi : Option Byte) (s : State) :
    (pairOperand lo hi s).2 = s ∨ (pairOperand lo hi s).2 = countDraw s := by
  unfold pairOperand; split <;> simp

@[simp] theorem pairOperand_written (l h : Byte) (s : State) : pairOperand (some l) (some h) s = (le16 l h, s) := rfl

/-! ### Transport -/

theorem txSend_ready {b : Byte} {n : Fsm} {s : State} (h : s.txReady = true) :
    txSend b n s = { s with txlog := s.txlog ++ [b], fsm := n } := by simp [txSend, h]

theorem txSend_hold {b : Byte} {n : Fsm} {s : State} (h : s.txReady = false) : txSend b n s = s := by
  simp [txSend, h]

/-- Where a received byte comes from (R142, R143). -/
theorem rxTake_byte {s t : State} {b : Byte} (h : rxTake s = .byte b t) :
    (s.cfg.rxPath = .direct ∧ ∃ rest, s.rxq = .byte b :: rest ∧ t = { s with rxq := rest }) ∨
      (s.cfg.rxPath = .viaRb ∧ s.linkErr = false ∧ s.rd ≠ s.wr ∧ s.rd ≤ s.cfg.mask ∧ b = (ringHead s).1 ∧
        t = ringDrop (ringHead s).2) := by
  unfold rxTake at h
  split at h
  · rename_i hp
    unfold rxTakeDirect at h
    split at h <;> cases h
    exact .inl ⟨hp, _, ‹_›, rfl⟩
  · rename_i hp
    unfold rxTakeViaRb at h
    split at h
    · cases h
    split at h
    · cases h
    split at h
    · rename_i h1 h2 h3; cases h; exact .inr ⟨hp, by simpa using h1, h2, by simpa using h3, rfl, rfl⟩
    · cases h

/-- Where a link error comes from (R142, R143). -/
theorem rxTake_linkErr {s t : State} {k : Option LinkKind} (h : rxTake s = .linkErr k t) :
    (s.cfg.rxPath = .direct ∧ ∃ kind rest, s.rxq = .linkErr kind :: rest ∧ k = some kind ∧ t = { s with rxq := rest }) ∨
      (s.cfg.rxPath = .viaRb ∧ s.linkErr = true ∧ k = none ∧ t = { s with linkErr := false }) := by
  unfold rxTake at h
  split at h
  · rename_i hp
    unfold rxTakeDirect at h
    split at h <;> cases h
    exact .inl ⟨hp, _, _, ‹_›, rfl, rfl⟩
  · rename_i hp
    unfold rxTakeViaRb at h
    split at h
    · rename_i h1; cases h; exact .inr ⟨hp, h1, rfl, rfl⟩
    split at h
    · cases h
    split at h <;> cases h

/-- A receive stops only at a cursor above MASK. -/
theorem rxTake_stop {s : State} {f : Fault} (h : rxTake s = .stop f) : ¬ s.rd ≤ s.cfg.mask := by
  unfold rxTake at h
  split at h
  · unfold rxTakeDirect at h
    split at h <;> cases h
  · unfold rxTakeViaRb at h
    split at h
    · cases h
    split at h
    · cases h
    split at h
    · cases h
    · simpa using ‹¬ slotExists _ _ = true›

/-! ### Received patterns -/

/-- At the position a byte was received for, the pattern's other byte plays no part (log entry 11). -/
theorem execCountResp_first (r0 r1 r1' : Byte) (s : State) (h : s.fsm = .qcRx 0) :
    execCountResp r0 r1 s = execCountResp r0 r1' s := by simp [execCountResp, h]

theorem execCountResp_second (r0 r0' r1 : Byte) (s : State) (h : s.fsm = .qcRx 1) :
    execCountResp r0 r1 s = execCountResp r0' r1 s := by simp [execCountResp, h]

theorem execTileHdr_first (x y y' : Byte) (s : State) (h : s.fsm = .rtHdr 0) :
    execTileHdr x y s = execTileHdr x y' s := by simp [execTileHdr, h]

theorem execTileHdr_second (x x' y : Byte) (s : State) (h : s.fsm = .rtHdr 1) :
    execTileHdr x y s = execTileHdr x' y s := by simp [execTileHdr, h]

theorem execPayloadPixel_even (lo hi hi' : Byte) (s : State) (m j : Nat) (h : s.fsm = .rtPay m j)
    (he : (m * s.cfg.chunk + j) % 2 = 0) : execPayloadPixel lo hi s = execPayloadPixel lo hi' s := by
  simp [execPayloadPixel, h, he]

theorem execPayloadPixel_odd (lo lo' hi : Byte) (s : State) (m j : Nat) (h : s.fsm = .rtPay m j)
    (ho : (m * s.cfg.chunk + j) % 2 ≠ 0) : execPayloadPixel lo hi s = execPayloadPixel lo' hi s := by
  simp [execPayloadPixel, h, ho]

/-! ### The display log -/

/-- DISP settles the last call alone, and only if it is pending. -/
@[simp] theorem settleLast_append (a : Answer) (l : List BlockWrite) (b : BlockWrite) :
    settleLast a (l ++ [b]) = l ++ [if b.answer = .pending then { b with answer := a } else b] := by
  induction l with
  | nil => simp only [List.nil_append, settleLast]; split <;> rfl
  | cons c l ih =>
    cases l with
    | nil => simp only [List.nil_append, List.cons_append, settleLast] at ih ⊢; rw [ih]
    | cons d l => simp only [List.cons_append, settleLast] at ih ⊢; rw [ih]

@[simp] theorem settleLast_nil (a : Answer) : settleLast a [] = [] := rfl

@[simp] theorem settleLast_length (a : Answer) (l : List BlockWrite) : (settleLast a l).length = l.length := by
  rcases List.eq_nil_or_concat l with rfl | ⟨l', b, rfl⟩
  · rfl
  · simp

/-! ### Scheduling -/

@[simp] theorem nextAgentStep_cons {s : State} {e : AgentStep} {rest : List AgentStep} (h : s.agenda = e :: rest) :
    nextAgentStep s = (e, { s with agenda := rest }) := by simp [nextAgentStep, h]

theorem nextAgentStep_free {s : State} (h : s.agenda = []) :
    nextAgentStep s = (Config.agentStep s.turn, { s with turn := s.turn + 1 }) := by simp [nextAgentStep, h]

/-- A step is one agent's step, of a block that can be built. -/
theorem step_next {s t : State} (h : step s = .next t) :
    s.cfg.ok = true ∧ agentStep (nextAgentStep s).1 (nextAgentStep s).2 = .next t := by
  unfold step at h
  split at h
  · exact ⟨‹_›, h⟩
  · cases h

end Sys2Proof.Machine
end

