-- ==== Sys2Proof/Laws/PerInstr.lean ====
section
/-! SUPPORT. Statements made for each instruction as syntax, one lemma per constructor. -/

namespace Sys2Proof.Laws.EncodingFits

/-- The encoding has a width the opcode table has, and its bits fit that width. -/
def Statement (i : Instr) : Prop :=
  ((encode i).1 = 32 ∨ (encode i).1 = 16 ∨ (encode i).1 = 8) ∧ (encode i).2 < 2 ^ (encode i).1

/-- An operation word has 32 bits. -/
theorem of_word {i : Instr} {w : OpWord} (h : encodeWord i = some w) : Statement i := by
  simp only [Statement, encode, h]
  exact ⟨.inl trivial, w.isLt⟩

/-- Two bytes are 16 bits. -/
theorem of_pair {i : Instr} {b0 b1 : Byte} (h : encodeWord i = none) (hb : wireBytes i = [b0, b1]) : Statement i := by
  have h0 := b0.isLt
  have h1 := b1.isLt
  simp only [Statement, encode, h, hb, natOfWire, List.length_cons, List.length_nil, List.foldl_cons, List.foldl_nil]
  exact ⟨by decide, by norm_num at *; omega⟩

theorem rbPut (b : Byte) : Statement (.rbPut b) := of_word rfl
theorem rbPerr : Statement .rbPerr := of_word rfl
theorem rbGet : Statement .rbGet := of_word rfl
theorem rbHasdata : Statement .rbHasdata := of_word rfl
theorem rbIsempty : Statement .rbIsempty := of_word rfl
theorem rbIsfull : Statement .rbIsfull := of_word rfl
theorem rbSlots : Statement .rbSlots := of_word rfl
theorem frQc : Statement .frQc := of_word rfl
theorem frTile (idx : HWord) : Statement (.frTile idx) := of_word rfl
theorem frStat : Statement .frStat := of_word rfl
theorem frCount : Statement .frCount := of_word rfl
theorem frOrigin : Statement .frOrigin := of_word rfl
theorem getImageCount : Statement .getImageCount := of_pair rfl rfl
theorem ready : Statement .ready := ⟨.inr (.inr rfl), by decide⟩
theorem countResp (r0 r1 : Byte) : Statement (.countResp r0 r1) := of_pair rfl rfl
theorem tileHdr (x y : Byte) : Statement (.tileHdr x y) := of_pair rfl rfl
theorem payloadPixel (lo hi : Byte) : Statement (.payloadPixel lo hi) := of_pair rfl rfl

theorem getImage (idx : HWord) : Statement (.getImage idx) := by
  have h0 := (lowByte idx).isLt
  have h1 := (highByte idx).isLt
  simp only [Statement, encode, encodeWord, wireBytes, frameImage, natOfWire, List.length_cons, List.length_nil,
    List.foldl_cons, List.foldl_nil, Config.esc, Config.cmdImage]
  exact ⟨by decide, by norm_num at *; omega⟩

end Sys2Proof.Laws.EncodingFits
end

