-- ==== Sys2Proof/Laws/Ring.lean ====
section
/-! SUPPORT. The arithmetic of cursors, and what a put and a get do to the buffered bytes. -/

namespace Sys2Proof.Machine

/-- The ranges of R6, as a conjunction. -/
theorem params_bounds {c : Params} (h : c.ok = true) :
    1 ≤ c.log2n ∧ c.log2n ≤ 16 ∧ 1 ≤ c.tileW ∧ c.tileW ≤ 256 ∧ 1 ≤ c.tileH ∧ c.tileH ≤ 256 ∧ 1 ≤ c.chunk ∧ c.chunk ≤ c.payload ∧ c.payload % c.chunk = 0 := by simpa [Params.ok] using h

/-- N is a power of two from 2 to 2^16 (R6). -/
theorem depth_bounds {c : Params} (h : c.ok = true) : 2 ≤ c.depth ∧ c.depth ≤ 2^16 ∧ 2^16 % c.depth = 0 := by
  have := params_bounds h
  refine ⟨?_, Nat.pow_le_pow_right (by decide) this.2.1, ?_⟩
  · calc 2 = 2^1 := rfl
      _ ≤ _ := Nat.pow_le_pow_right (by decide) this.1
  · exact Nat.mod_eq_zero_of_dvd (Nat.pow_dvd_pow 2 this.2.1)

/-- A cursor is in range exactly when it names one of the N slots (R60). -/
theorem le_mask_iff {c : Params} (h : c.ok = true) (a : HWord) : a ≤ c.mask ↔ a.toNat < c.depth := by
  have := depth_bounds h
  rw [BitVec.le_def, mask_toNat c (params_bounds h).2.1]; omega

/-- A masked sum of a cursor is the sum modulo N (R116). -/
theorem add_and_mask {c : Params} (h : c.ok = true) (a : HWord) (n : Nat) :
    ((a + BitVec.ofNat 16 n) &&& c.mask).toNat = (a.toNat + n) % c.depth := by
  rw [and_mask_toNat c (params_bounds h).2.1, BitVec.toNat_add, BitVec.toNat_ofNat]
  have hd : c.depth ∣ 2^16 := Nat.dvd_of_mod_eq_zero (depth_bounds h).2.2
  rw [Nat.mod_mod_of_dvd _ hd]
  conv_lhs => rw [Nat.add_mod, Nat.mod_mod_of_dvd _ hd, ← Nat.add_mod]

/-- A masked difference of two cursors is the difference modulo N (R26, R116). -/
theorem sub_and_mask {c : Params} (h : c.ok = true) (a b : HWord) (ha : a ≤ c.mask) (hb : b ≤ c.mask) :
   ((a - b) &&& c.mask).toNat = (a.toNat + c.depth - b.toNat) % c.depth := by
  rw [le_mask_iff h] at ha hb
  rw [and_mask_toNat c (params_bounds h).2.1, BitVec.toNat_sub]
  have hd : c.depth ∣ 2^16 := Nat.dvd_of_mod_eq_zero (depth_bounds h).2.2
  rw [Nat.mod_mod_of_dvd _ hd]
  obtain ⟨q, hq⟩ := hd
  have hb' := b.isLt
  have d := depth_bounds h
  have hq1 : 1 ≤ q := by by_contra hc; simp at hc; subst hc; simp at hq
  obtain ⟨q', rfl⟩ := Nat.exists_eq_add_of_le hq1
  rw [hq]
  have : c.depth * (1 + q') - b.toNat + a.toNat = (a.toNat + c.depth - b.toNat) + c.depth * q' := by
    rw [Nat.mul_add]; omega
  rw [this, Nat.add_mul_mod_self_left]

/-- FULL as a fact about numbers (R26). -/
theorem isFull_iff {s : State} (h : s.cfg.ok = true) :
    isFull s = true ↔ s.rd.toNat = (s.wr.toNat + 1) % s.cfg.depth := by
  unfold isFull
  rw [decide_eq_true_iff, ← BitVec.toNat_inj, add_and_mask h s.wr 1]

/-- The bytes between two cursors, by cases (R26). -/
def cursorGap (N r w : Nat) : Nat := if r ≤ w then w - r else w + N - r

/-- A remainder below twice the divisor, by cases. -/
theorem mod_by_cases {N a : Nat} (h : a < 2 * N) : a % N = if a < N then a else a - N := by
  split
  · exact Nat.mod_eq_of_lt ‹_›
  · rw [Nat.mod_eq_sub_mod (by omega), Nat.mod_eq_of_lt (by omega)]

/-- The index of the k-th buffered byte, as a number (R28). -/
theorem bufferedIndex_eq {s : State} (h : s.cfg.ok = true) (k : Nat) :
    bufferedIndex s k = (s.rd.toNat + k) % s.cfg.depth := by
  unfold bufferedIndex; rw [add_and_mask h]

/-- The count of R26, by cases. -/
theorem ringCount_eq {s : State} (h : s.cfg.ok = true) (hr : s.rd ≤ s.cfg.mask) (hw : s.wr ≤ s.cfg.mask) :
   (ringCount s).toNat = cursorGap s.cfg.depth s.rd.toNat s.wr.toNat := by
  have hc := sub_and_mask h s.wr s.rd hw hr
  unfold ringCount; rw [hc]
  rw [le_mask_iff h] at hr hw
  unfold cursorGap; split
  · rw [show s.wr.toNat + s.cfg.depth - s.rd.toNat = (s.wr.toNat - s.rd.toNat) + s.cfg.depth by omega,
      Nat.add_mod_right, Nat.mod_eq_of_lt (by omega)]
  · rw [Nat.mod_eq_of_lt (by omega)]

/-- The buffered bytes with their indexes as numbers (R28). -/
theorem buffered_eq {s : State} (h : s.cfg.ok = true) (hr : s.rd ≤ s.cfg.mask) (hw : s.wr ≤ s.cfg.mask) :
    buffered s = (List.range (cursorGap s.cfg.depth s.rd.toNat s.wr.toNat)).map fun k =>
      s.rbMem.read ((s.rd.toNat + k) % s.cfg.depth) := by
  unfold buffered; rw [ringCount_eq h hr hw]
  simp only [bufferedIndex_eq h]

/-- The buffered bytes depend on the storage and the cursors alone. -/
theorem buffered_same {s t : State} (hc : t.cfg = s.cfg) (h1 : t.rd = s.rd) (h2 : t.wr = s.wr) (hm : t.rbMem = s.rbMem) :
    buffered t = buffered s := by
  unfold buffered ringCount bufferedIndex; rw [hc, h1, h2, hm]

/-- A put on a buffer that is not full appends its byte (R101). -/
theorem buffered_put {s t : State} {b : Byte} (h : s.cfg.ok = true) (hr : s.rd ≤ s.cfg.mask) (hw : s.wr ≤ s.cfg.mask)
    (hc : t.cfg = s.cfg) (h1 : t.rd = s.rd) (h2 : t.wr = advance s.cfg s.wr)
    (hm : t.rbMem = s.rbMem.write s.wr.toNat b) (hf : isFull s = false) :
    buffered t = buffered s ++ [some b] := by
  have d := depth_bounds h
  have hadv := advance_le s.cfg s.wr
  have hadn : (advance s.cfg s.wr).toNat = (s.wr.toNat + 1) % s.cfg.depth := add_and_mask h s.wr 1
  have hnf : s.rd.toNat ≠ (s.wr.toNat + 1) % s.cfg.depth := by
    intro e; rw [(isFull_iff h).2 e] at hf; cases hf
  rw [buffered_eq h hr hw, buffered_eq (by rw [hc]; exact h) (by rw [hc, h1]; exact hr) (by rw [hc, h2]; exact hadv)]
  rw [hc, h1, h2, hm, hadn]
  rw [le_mask_iff h] at hr hw
  generalize s.cfg.depth = N at *
  have e0 := @mod_by_cases N (s.wr.toNat + 1) (by omega)
  have e1 : cursorGap N s.rd.toNat ((s.wr.toNat + 1) % N) = cursorGap N s.rd.toNat s.wr.toNat + 1 := by
    rw [e0] at hnf ⊢; unfold cursorGap; split at hnf <;> simp only [*, if_true, if_false] <;> split <;> split <;> omega
  have hl : cursorGap N s.rd.toNat s.wr.toNat < N := by unfold cursorGap; split <;> omega
  rw [e1, List.range_succ, List.map_append]
  congr 1
  · apply List.map_congr_left
    intro k hk
    simp at hk
    rw [Memory.read_write, if_neg]
    rw [mod_by_cases (by omega)]
    unfold cursorGap at hk; split at hk <;> split <;> omega
  · simp only [List.map_cons, List.map_nil]
    rw [Memory.read_write, if_pos]
    rw [mod_by_cases (by omega)]
    unfold cursorGap; split <;> split <;> omega

/-- Advancing `rd` on a buffer that is not empty takes the first byte (R103, R143). -/
theorem buffered_get {s t : State} (h : s.cfg.ok = true) (hr : s.rd ≤ s.cfg.mask) (hw : s.wr ≤ s.cfg.mask)
    (hc : t.cfg = s.cfg) (h1 : t.rd = advance s.cfg s.rd) (h2 : t.wr = s.wr) (hm : t.rbMem = s.rbMem) (hne : s.rd ≠ s.wr) :
    buffered s = s.rbMem.read s.rd.toNat :: buffered t := by
  have d := depth_bounds h
  have hadv := advance_le s.cfg s.rd
  have hadn : (advance s.cfg s.rd).toNat = (s.rd.toNat + 1) % s.cfg.depth := add_and_mask h s.rd 1
  have hn : s.rd.toNat ≠ s.wr.toNat := fun e => hne (BitVec.eq_of_toNat_eq e)
  rw [buffered_eq h hr hw, buffered_eq (by rw [hc]; exact h) (by rw [hc, h1]; exact hadv) (by rw [hc, h2]; exact hw)]
  rw [hc, h1, h2, hm, hadn]
  rw [le_mask_iff h] at hr hw
  generalize s.cfg.depth = N at *
  have e0 := @mod_by_cases N (s.rd.toNat + 1) (by omega)
  have e1 : cursorGap N s.rd.toNat s.wr.toNat = cursorGap N ((s.rd.toNat + 1) % N) s.wr.toNat + 1 := by
    rw [e0]; unfold cursorGap; split <;> split <;> (try split) <;> omega
  rw [e1, List.range_succ_eq_map, List.map_cons]
  simp only [Nat.add_zero, Nat.mod_eq_of_lt hr, List.map_map]
  congr 1
  apply List.map_congr_left
  intro k hk
  simp only [Function.comp]
  rw [Nat.mod_add_mod]; congr 2; omega

end Sys2Proof.Machine
end

