-- ==== Sys2Proof/Laws/Steps.lean ====
section
/-! SUPPORT. What a step can do, said once: an inversion of exec for the operation words, of the framer's step, and of any
agent's step. Claims about every step follow by cases on these. -/

namespace Sys2Proof.Machine

/-- Every next state an operation word can lead to, with the condition under which it does. `u` is the state with the
issuing agent noted. -/
inductive OpNext (u : State) : Instr → State → Prop
  | port (i : Instr) (p : Port) : portOf i = some p → i.wf u.cfg.rxPath = true →
      ownsPort u.cfg.rxPath u.issuer p = false → OpNext u i (rejectWord .port u)
  | perrDirect : u.cfg.rxPath = .direct → OpNext u .rbPerr (rejectWord .reserved u)
  | put (b : Byte) : u.issuer = .prod → u.wr ≤ u.cfg.mask →
      OpNext u (.rbPut b) (answer 0#16 (ringStore b (if isFull u then raiseFault .rbPutFull u else u)))
  | perr : u.issuer = .prod → u.cfg.rxPath = .viaRb → OpNext u .rbPerr (answer 0#16 { u with linkErr := true })
  | getEmpty : u.issuer = .cons → u.cfg.rxPath = .direct → u.rd = u.wr →
      OpNext u .rbGet
        (answer ((Config.draw8 u.draws 0).zeroExtend 16) (ringDrop (countDraw (raiseFault .rbGetEmpty u))))
  | get : u.issuer = .cons → u.cfg.rxPath = .direct → u.rd ≠ u.wr → u.rd ≤ u.cfg.mask →
      OpNext u .rbGet (answer ((ringHead u).1.zeroExtend 16) (ringDrop (ringHead u).2))
  | status (i : Instr) (v : HWord) : portOf i = some .status → OpNext u i (answer v u)
  | stat : u.issuer = .caller → OpNext u .frStat (answer (statWord u) u)
  | query : u.issuer = .caller → u.fsm = .idle → OpNext u .frQc (answer 0#16 (acceptQueryCount u))
  | tile (i : HWord) : u.issuer = .caller → u.fsm = .idle → OpNext u (.frTile i) (answer 0#16 (acceptRequestTile i u))
  | queryBusy : u.issuer = .caller → u.fsm ≠ .idle → OpNext u .frQc (rejectWord .frBusy u)
  | tileBusy (i : HWord) : u.issuer = .caller → u.fsm ≠ .idle → OpNext u (.frTile i) (rejectWord .frBusy u)
  | count : u.issuer = .caller → u.countValid = true →
      OpNext u .frCount (answer (pairOperand u.count.lo u.count.hi u).1 (pairOperand u.count.lo u.count.hi u).2)
  | countUndef : u.issuer = .caller → u.countValid = false → OpNext u .frCount (undefinedRead u)
  | origin : u.issuer = .caller → u.originValid = true →
      OpNext u .frOrigin (answer (pairOperand u.ox u.oy u).1 (pairOperand u.ox u.oy u).2)
  | originUndef : u.issuer = .caller → u.originValid = false → OpNext u .frOrigin (undefinedRead u)

theorem owns_producer {rx : RxPath} {a : Agent} (h : ownsPort rx a .producer = true) : a = .prod := by
  simpa [ownsPort] using h

theorem owns_consumer {rx : RxPath} {a : Agent} (h : ownsPort rx a .consumer = true) : a = .cons ∧ rx = .direct := by
  simpa [ownsPort] using h

theorem owns_control {rx : RxPath} {a : Agent} (h : ownsPort rx a .control = true) : a = .caller := by
  simpa [ownsPort] using h

theorem putByte_next {b : Byte} {u t : State} (h : putByte b u = .next t) :
    u.wr ≤ u.cfg.mask ∧ t = answer 0#16 (ringStore b (if isFull u then raiseFault .rbPutFull u else u)) := by
  unfold putByte at h
  split at h
  · rename_i hw; cases h; exact ⟨by simpa using hw, rfl⟩
  · cases h

theorem getByte_next {u t : State} (h : getByte u = .next t) :
    (u.rd = u.wr ∧ t = answer ((Config.draw8 u.draws 0).zeroExtend 16)
        (ringDrop (countDraw (raiseFault .rbGetEmpty u)))) ∨
      (u.rd ≠ u.wr ∧ u.rd ≤ u.cfg.mask ∧ t = answer ((ringHead u).1.zeroExtend 16) (ringDrop (ringHead u).2)) := by
  unfold getByte at h
  split at h
  · rename_i he; cases h; exact .inl ⟨by simpa [isEmpty] using he, rfl⟩
  · rename_i he
    split at h
    · rename_i hr; cases h; exact .inr ⟨by simpa [isEmpty] using he, by simpa using hr, rfl⟩
    · cases h

/-- Everything an operation word can do. -/
theorem exec_opNext {i : Instr} {w : OpWord} {u t : State} (hw : encodeWord i = some w) (h : exec i u = .next t) :
    OpNext u i t := by
  cases i <;> simp only [encodeWord, reduceCtorEq] at hw <;> simp only [exec] at h
  case rbPut b =>
    rcases guardPort_next h with ⟨hp, hb⟩ | ⟨hp, rfl⟩
    · obtain ⟨h1, rfl⟩ := putByte_next hb; exact .put b (owns_producer hp) h1
    · exact .port _ _ rfl rfl hp
  case rbPerr =>
    unfold execRbPerr at h
    split at h
    · rename_i hd; cases h; exact .perrDirect hd
    · rename_i hv
      rcases guardPort_next h with ⟨hp, hb⟩ | ⟨hp, rfl⟩
      · cases hb; exact .perr (owns_producer hp) hv
      · exact .port _ .producer rfl (by simp [Instr.wf, hv]) hp
  case rbGet =>
    rcases guardPort_next h with ⟨hp, hb⟩ | ⟨hp, rfl⟩
    · obtain ⟨h1, h2⟩ := owns_consumer hp
      rcases getByte_next hb with ⟨he, rfl⟩ | ⟨he, hr, rfl⟩
      · exact .getEmpty h1 h2 he
      · exact .get h1 h2 he hr
    · exact .port _ _ rfl rfl hp
  case rbHasdata | rbIsempty | rbIsfull | rbSlots =>
    rcases guardPort_next h with ⟨-, hb⟩ | ⟨hp, -⟩
    · cases hb; exact .status _ _ rfl
    · simp [ownsPort] at hp
  case frQc =>
    rcases guardPort_next h with ⟨hp, hb⟩ | ⟨hp, rfl⟩
    · split at hb <;> rename_i hz <;> cases hb
      · exact .queryBusy (owns_control hp) (by simpa [busy] using hz)
      · exact .query (owns_control hp) (by simpa [busy] using hz)
    · exact .port _ _ rfl rfl hp
  case frTile i =>
    rcases guardPort_next h with ⟨hp, hb⟩ | ⟨hp, rfl⟩
    · split at hb <;> rename_i hz <;> cases hb
      · exact .tileBusy i (owns_control hp) (by simpa [busy] using hz)
      · exact .tile i (owns_control hp) (by simpa [busy] using hz)
    · exact .port _ _ rfl rfl hp
  case frStat =>
    rcases guardPort_next h with ⟨hp, hb⟩ | ⟨hp, rfl⟩
    · cases hb; exact .stat (owns_control hp)
    · exact .port _ _ rfl rfl hp
  case frCount =>
    rcases guardPort_next h with ⟨hp, hb⟩ | ⟨hp, rfl⟩
    · split at hb <;> rename_i hv <;> cases hb
      · exact .count (owns_control hp) hv
      · exact .countUndef (owns_control hp) (by simpa using hv)
    · exact .port _ _ rfl rfl hp
  case frOrigin =>
    rcases guardPort_next h with ⟨hp, hb⟩ | ⟨hp, rfl⟩
    · split at hb <;> rename_i hv <;> cases hb
      · exact .origin (owns_control hp) hv
      · exact .originUndef (owns_control hp) (by simpa using hv)
    · exact .port _ _ rfl rfl hp

/-- A word decodes to operations alone, never to a wire pattern. -/
theorem decodeWord_operation {w : OpWord} {i : Instr} (h : decodeWord w = .ok i) : ∃ w', encodeWord i = some w' := by
  have hn : ∀ j, decodeNoArg w j = .ok i → j = i := by
    intro j hj; unfold decodeNoArg at hj; split at hj <;> cases hj; rfl
  unfold decodeWord at h
  split at h
  · unfold decodeOpc at h
    split at h
    case h_1 => unfold decodePut at h; split at h <;> cases h; exact ⟨_, rfl⟩
    case h_9 => cases h; exact ⟨_, rfl⟩
    case h_13 => cases h
    all_goals exact ⟨_, by rw [← hn _ h]; rfl⟩
  · cases h

/-! ### The framer -/

/-- The byte sent at a sending position, with the index `i`, and the next position (R154, R155). -/
inductive SendRow (i : HWord) : Fsm → Byte → Fsm → Prop
  | qc0 : SendRow i (.qcTx 0) Config.esc (.qcTx 1)
  | qc1 : SendRow i (.qcTx 1) Config.cmdCount (.qcRx 0)
  | rt0 : SendRow i (.rtTx 0) Config.esc (.rtTx 1)
  | rt1 : SendRow i (.rtTx 1) Config.cmdImage (.rtTx 2)
  | rt2 : SendRow i (.rtTx 2) (lowByte i) (.rtTx 3)
  | rt3 : SendRow i (.rtTx 3) (highByte i) (.rtHdr 0)
  | rdy (m : Nat) : SendRow i (.rtRdy m) Config.readyByte (.rtPay m 0)

/-- What a received byte does to the state `t` it was taken in (R154, R155). -/
inductive RecvRow (t : State) (b : Byte) : State → Prop
  | qc0 : t.fsm = .qcRx 0 → RecvRow t b { t with count := { t.count with lo := some b }, fsm := .qcRx 1 }
  | qc1 : t.fsm = .qcRx 1 → RecvRow t b (finish .ok { t with count := { t.count with hi := some b } })
  | hdr0 : t.fsm = .rtHdr 0 → RecvRow t b { t with ox := some b, fsm := .rtHdr 1 }
  | hdr1 : t.fsm = .rtHdr 1 → RecvRow t b { t with oy := some b, fsm := .rtRdy 0 }
  | pay (m j : Nat) : t.fsm = .rtPay m j → m * t.cfg.chunk + j < t.cfg.payload →
      RecvRow t b { t with tb := t.tb.write (m * t.cfg.chunk + j) b, fsm := afterPayload t.cfg m j }

/-- Every next state a framer step can lead to. -/
inductive FramerNext (s : State) : State → Prop
  | stay : FramerNext s s
  | holdDrawn : (∃ k, s.fsm = .rtTx k) → s.idx = none → FramerNext s (countDraw s)
  | sent (u : State) (i : HWord) (b : Byte) (n : Fsm) : u = s ∨ ((∃ k, s.fsm = .rtTx k) ∧ s.idx = none ∧ u = countDraw s) →
      (∀ j, s.idx = some j → (∃ k, s.fsm = .rtTx k) → i = j) → s.txReady = true → SendRow i s.fsm b n →
      FramerNext s { u with txlog := s.txlog ++ [b], fsm := n }
  | aborted (k : Option LinkKind) (u : State) : s.fsm.receives = true → rxTake s = .linkErr k u →
      FramerNext s (abort u)
  | received (b : Byte) (u t : State) : s.fsm.receives = true → rxTake s = .byte b u → RecvRow u b t → FramerNext s t
  | rendered : s.fsm = .rtDisp → FramerNext s (renderStep s)
  | finished (r : OpResult) (l : List BlockWrite) (c : BlockWrite) : s.fsm = .rtWait → s.displog = l ++ [c] →
      (c.answer = .ok ∧ r = .ok ∨ c.answer = .err ∧ r = .displayWriteError) → FramerNext s (finish r s)

theorem framerStep_receives {s : State} (h : s.fsm.receives = true) : framerStep s = receiveStep s := by
  revert h; cases hf : s.fsm <;> simp [Fsm.receives, framerStep, hf]

/-- A receive leaves the block's parameters and the framer's position. -/
theorem rxTake_byte_fsm {s t : State} {b : Byte} (h : rxTake s = .byte b t) : t.cfg = s.cfg ∧ t.fsm = s.fsm := by
  rcases rxTake_byte h with ⟨-, rest, -, rfl⟩ | ⟨-, -, -, -, -, rfl⟩
  · exact ⟨rfl, rfl⟩
  · rcases ringHead_state s with e | e <;> rw [e] <;> simp

/-- A received byte is placed by the framer's position; only an offset outside TB stops the step. -/
theorem receiveStep_byte {s t : State} {b : Byte} (hr : s.fsm.receives = true) (h : rxTake s = .byte b t) :
    (∃ u, receiveStep s = .next u ∧ RecvRow t b u) ∨
      (∃ m j, s.fsm = .rtPay m j ∧ ¬ m * s.cfg.chunk + j < s.cfg.payload ∧ receiveStep s = .fault .noTileByte) := by
  obtain ⟨hc, hf⟩ := rxTake_byte_fsm h
  simp only [receiveStep, h]
  revert hr
  cases he : s.fsm with
  | qcRx k =>
    rw [he] at hf
    intro _
    match k with
    | 0 => exact .inl ⟨_, by simp only [hf, receivedPattern, decodeRx, exec, execCountResp], .qc0 hf⟩
    | 1 => exact .inl ⟨_, by simp only [hf, receivedPattern, decodeRx, exec, execCountResp], .qc1 hf⟩
  | rtHdr k =>
    rw [he] at hf
    intro _
    match k with
    | 0 => exact .inl ⟨_, by simp only [hf, receivedPattern, decodeRx, exec, execTileHdr], .hdr0 hf⟩
    | 1 => exact .inl ⟨_, by simp only [hf, receivedPattern, decodeRx, exec, execTileHdr], .hdr1 hf⟩
  | rtPay m j =>
    rw [he] at hf
    intro _
    by_cases hp : m * t.cfg.chunk + j < t.cfg.payload
    · refine .inl ⟨_, ?_, .pay m j hf hp⟩
      by_cases e : (m * t.cfg.chunk + j) % 2 = 0 <;>
        simp [hf, receivedPattern, decodeRx, exec, execPayloadPixel, e, hp]
    · refine .inr ⟨m, j, rfl, by rw [← hc]; exact hp, ?_⟩
      by_cases e : (m * t.cfg.chunk + j) % 2 = 0 <;>
        simp [hf, receivedPattern, decodeRx, exec, execPayloadPixel, e, hp]
  | _ => simp [Fsm.receives]

theorem receiveStep_next {s t : State} (hr : s.fsm.receives = true) (h : receiveStep s = .next t) : FramerNext s t := by
  cases hx : rxTake s with
  | hold => simp only [receiveStep, hx] at h; cases h; exact .stay
  | stop f => simp only [receiveStep, hx] at h; cases h
  | linkErr k u => simp only [receiveStep, hx] at h; cases h; exact .aborted k u hr hx
  | byte b u =>
    rcases receiveStep_byte hr hx with ⟨v, hv, row⟩ | ⟨_, _, _, _, hv⟩
    · rw [hv] at h; cases h; exact .received b u _ hr hx row
    · rw [hv] at h; cases h

/-- A send step either goes out or holds. -/
theorem framer_sends {s u : State} {i : HWord} {b : Byte} {n : Fsm}
    (hu : u = s ∨ ((∃ k, s.fsm = .rtTx k) ∧ s.idx = none ∧ u = countDraw s))
    (hi : ∀ j, s.idx = some j → (∃ k, s.fsm = .rtTx k) → i = j) (row : SendRow i s.fsm b n) :
    FramerNext s (txSend b n u) := by
  have hr : u.txReady = s.txReady ∧ u.txlog = s.txlog := by rcases hu with rfl | ⟨-, -, rfl⟩ <;> simp
  cases hx : s.txReady with
  | true =>
    rw [txSend_ready (hr.1.trans hx), hr.2]
    exact .sent u i b n hu hi hx row
  | false =>
    rw [txSend_hold (hr.1.trans hx)]
    rcases hu with rfl | ⟨h1, h2, rfl⟩
    · exact .stay
    · exact .holdDrawn h1 h2

theorem indexOperand_cases (s : State) :
    (∃ i, s.idx = some i ∧ indexOperand s = (i, s)) ∨
      (s.idx = none ∧ indexOperand s = (Config.draw16 s.draws, countDraw s)) := by
  unfold indexOperand; split
  · exact .inl ⟨_, ‹_›, rfl⟩
  · exact .inr ⟨‹_›, rfl⟩

/-- Everything a framer step can do. -/
theorem framerStep_next {s t : State} (h : framerStep s = .next t) : FramerNext s t := by
  cases hf : s.fsm with
  | idle => simp only [framerStep, hf] at h; cases h; exact .stay
  | qcTx k =>
    simp only [framerStep, hf, exec, execGetImageCount] at h
    have hi : ∀ j, s.idx = some j → (∃ k, s.fsm = .rtTx k) → (0#16) = j := by rintro j - ⟨k', hk⟩; rw [hf] at hk; cases hk
    match k with
    | 0 => simp only at h; cases h; exact framer_sends (.inl rfl) hi (hf ▸ .qc0)
    | 1 => simp only at h; cases h; exact framer_sends (.inl rfl) hi (hf ▸ .qc1)
  | qcRx k => exact receiveStep_next (by rw [hf]; rfl) (framerStep_receives (s := s) (by rw [hf]; rfl) ▸ h)
  | rtTx k =>
    simp only [framerStep, hf, exec, execGetImage] at h
    have key : ∀ {u i}, (u = s ∨ ((∃ k, s.fsm = .rtTx k) ∧ s.idx = none ∧ u = countDraw s)) →
        (∀ j, s.idx = some j → (∃ k, s.fsm = .rtTx k) → i = j) → execGetImage i u = .next t → FramerNext s t := by
      intro u i hu hi hx
      have hfu : u.fsm = .rtTx k := by rcases hu with rfl | ⟨-, -, rfl⟩ <;> simpa using hf
      unfold execGetImage at hx
      rw [hfu] at hx
      match k with
      | 0 => simp only at hx; cases hx; exact framer_sends hu hi (hf ▸ .rt0)
      | 1 => simp only at hx; cases hx; exact framer_sends hu hi (hf ▸ .rt1)
      | 2 => simp only at hx; cases hx; exact framer_sends hu hi (hf ▸ .rt2)
      | 3 => simp only at hx; cases hx; exact framer_sends hu hi (hf ▸ .rt3)
    rcases indexOperand_cases s with ⟨i, hi, e⟩ | ⟨hn, e⟩
    · rw [e] at h
      exact key (.inl rfl) (fun j hj _ => by rw [hi] at hj; cases hj; rfl) h
    · rw [e] at h
      exact key (.inr ⟨⟨k, hf⟩, hn, rfl⟩) (fun j hj _ => by rw [hn] at hj; cases hj) h
  | rtHdr k => exact receiveStep_next (by rw [hf]; rfl) (framerStep_receives (s := s) (by rw [hf]; rfl) ▸ h)
  | rtRdy m =>
    simp only [framerStep, hf, exec, execReady] at h
    cases h
    exact framer_sends (i := 0#16) (.inl rfl) (by rintro j - ⟨k', hk⟩; rw [hf] at hk; cases hk) (hf ▸ .rdy m)
  | rtPay m j => exact receiveStep_next (by rw [hf]; rfl) (framerStep_receives (s := s) (by rw [hf]; rfl) ▸ h)
  | rtDisp => simp only [framerStep, hf] at h; cases h; exact .rendered hf
  | rtWait =>
    simp only [framerStep, hf] at h
    cases h
    rcases List.eq_nil_or_concat s.displog with hd | ⟨l, c, hd⟩
    · simp only [awaitAnswer, hd]; exact .stay
    · obtain ⟨x, y, w, hh, px, a⟩ := c
      cases a <;> simp only [awaitAnswer, hd, List.concat_eq_append, List.getLast?_append, List.getLast?_singleton,
        Option.some_or]
      · exact .stay
      · exact .finished _ l _ hf (by simpa using hd) (.inl ⟨rfl, rfl⟩)
      · exact .finished _ l _ hf (by simpa using hd) (.inr ⟨rfl, rfl⟩)

/-! ### Any agent -/

/-- Every next state an agent's step can lead to. -/
inductive AgentNext (s : State) : AgentStep → State → Prop
  | reserved (a : Agent) (w : OpWord) (e : Reject) : decodeWord w = .error e →
      AgentNext s (.issue a w) (rejectWord .reserved { s with issuer := a })
  | operation (a : Agent) (w : OpWord) (i : Instr) (t : State) : decodeWord w = .ok i →
      OpNext { s with issuer := a } i t → AgentNext s (.issue a w) t
  | framer (t : State) : FramerNext s t → AgentNext s .framer t
  | sendDirect (tok : Token) : s.cfg.rxPath = .direct → AgentNext s (.hostSend tok) { s with rxq := s.rxq ++ [tok] }
  | sendViaRb (tok : Token) : s.cfg.rxPath = .viaRb → AgentNext s (.hostSend tok) s
  | sink (r : Bool) : AgentNext s (.hostSink r) { s with txReady := r }
  | drop : AgentNext s .hostDrop s
  | answer (ok : Bool) : AgentNext s (.dispAnswer ok) (displayAnswer ok s)

/-- Everything an agent's step can do. -/
theorem agentStep_next {s t : State} {e : AgentStep} (h : agentStep e s = .next t) : AgentNext s e t := by
  cases e with
  | issue a w =>
    simp only [agentStep] at h
    split at h
    · cases h
    · unfold issueWord at h
      split at h
      · rename_i i hd
        obtain ⟨w', hw'⟩ := decodeWord_operation hd
        exact .operation a w i t hd (exec_opNext hw' h)
      · rename_i r hd; cases h; exact .reserved a w r hd
  | framer => exact .framer t (framerStep_next h)
  | hostSend tok =>
    simp only [agentStep, hostSend] at h
    split at h <;> cases h
    · exact .sendDirect tok ‹_›
    · exact .sendViaRb tok ‹_›
  | hostSink r => cases h; exact .sink r
  | hostDrop => cases h; exact .drop
  | dispAnswer ok => cases h; exact .answer ok

end Sys2Proof.Machine
end

