-- ==== Sys2Proof/Laws/Runs.lean ====
section
/-! SUPPORT. How runs go on and add up, what one put by PROD does, and where a received byte stands. -/

namespace Sys2Proof.Machine

@[simp] theorem thenRun_next (s : State) (f : State → Out) : thenRun (.next s) f = f s := rfl

@[simp] theorem thenRun_fault (e : Fault) (f : State → Out) : thenRun (.fault e) f = .fault e := rfl

@[simp] theorem thenRun_refused (r : Refusal) (f : State → Out) : thenRun (.refused r) f = .refused r := rfl

/-- A run that ends in a next state went through one. -/
theorem thenRun_eq_next {o : Out} {f : State → Out} {t : State} (h : thenRun o f = .next t) :
    ∃ u, o = .next u ∧ f u = .next t := by
  cases o with
  | next u => exact ⟨u, rfl, h⟩
  | fault _ => cases h
  | refused _ => cases h

/-- A run of the framer goes on from where a shorter one ended. -/
theorem framerRun_add {m n : Nat} {s u : State} (h : framerRun m s = .next u) :
    framerRun (m + n) s = framerRun n u := by
  induction m generalizing s with
  | zero => cases h; rw [Nat.zero_add]
  | succ m ih =>
    obtain ⟨v, hv, h⟩ := thenRun_eq_next h
    rw [Nat.add_right_comm, framerRun, hv]
    exact ih h

/-- PROD's put at a cursor in range (R101). -/
theorem prodPut_next (b : Byte) {s : State} (hw : s.wr ≤ s.cfg.mask) (hf : isFull s = false) :
    prodPut b s = .next (answer 0#16 (ringStore b { s with issuer := .prod })) := by
  have hf' : isFull { s with issuer := .prod } = false := hf
  have ho : ownsPort s.cfg.rxPath .prod .producer = true := rfl
  simp only [prodPut, exec, execRbPut, guardPort, ho, putByte, (slotExists_iff _ _).2 hw, hf', if_true,
    Bool.false_eq_true, if_false]

/-- While the next step is no receive on an empty ring buffer, PROD relays nothing before it. -/
theorem relayRun_framer {n : Nat} {feed : List Byte} {s : State} (h : (s.fsm.receives && isEmpty s) = false) :
    relayRun (n + 1) feed s = thenRun (framerStep s) (relayRun n feed) := by
  cases feed with
  | nil => rfl
  | cons b feed => rw [relayRun, h]; rfl

/-- PROD relays a byte before a receive on an empty ring buffer. -/
theorem relayRun_put {n : Nat} {b : Byte} {feed : List Byte} {s : State}
    (h : (s.fsm.receives && isEmpty s) = true) :
    relayRun (n + 1) (b :: feed) s = thenRun (thenRun (prodPut b s) framerStep) (relayRun n feed) := by
  rw [relayRun, h]; rfl

/-- A received byte stands where its position says, and nothing is drawn for it (R147 to R149). -/
theorem RecvRow.stored {t u : State} {b : Byte} (h : RecvRow t b u) :
    storedAt t.fsm u = some b ∧ u.draws = t.draws := by
  cases h with
  | pay m j hf hp => simp [hf, storedAt]
  | _ hf => simp [hf, storedAt]

end Sys2Proof.Machine
end

