-- ==== Sys2Proof/Tests/Slice0.lean ====
section
/-! SUPPORT. Tests: the well-formedness smoke test, words and bytes written out from 30_encoding.md, one or two single
steps per instruction with the results of 95_test_vectors.md, and a witness for each obligation that has hypotheses. -/

namespace Sys2Proof.Tests

open Sys2Proof.Machine

/-- One field of the next state. -/
def after {α : Type} (o : Out) (f : State → α) : Option α :=
  match o with
  | .next t => some (f t)
  | .fault _ => none
  | .refused _ => none

/-- The block of programs P2 and P5: N = 4, VIA_RB. -/
def viaRb : Params := { Config.built with rxPath := .viaRb }

/-- N = 2. -/
def tiny : Params := { Config.built with log2n := 1 }

/-- N = 65536. -/
def huge : Params := { Config.built with log2n := 16 }

/-- 8 × 8 tiles in chunks of 32 (L1-7). -/
def eight : Params := { Config.built with tileW := 8, tileH := 8, chunk := 32 }

/-- A ring buffer with these slots and cursors, the words issued by `a`. -/
def ring (c : Params) (a : Agent) (m : Memory) (rd wr : HWord) : State :=
  { State.resetFor c with rbMem := m, rd := rd, wr := wr, issuer := a }

/-- [0x41, 0x42, 0x43, 0x44] (V-RB-5 to V-RB-7). -/
def four : Memory := [(0, 0x41#8), (1, 0x42#8), (2, 0x43#8), (3, 0x44#8)]

/-- The framer in a QueryCount. -/
def query (c : Params) (f : Fsm) : State := { acceptQueryCount (State.resetFor c) with fsm := f, issuer := .caller }

/-- The framer in a RequestTile of index 0x0102 (P3). -/
def tile (c : Params) (f : Fsm) : State :=
  { acceptRequestTile 0x0102#16 (State.resetFor c) with fsm := f, issuer := .caller }

/-- The payload of P3 and V-FR-9: 00 F8 E0 07 1F 00 FF FF. -/
def pixels : Memory :=
  [(0, 0x00#8), (1, 0xF8#8), (2, 0xE0#8), (3, 0x07#8), (4, 0x1F#8), (5, 0x00#8), (6, 0xFF#8), (7, 0xFF#8)]

/-- P3 before the render step. -/
def drawn : State :=
  { tile Config.built .rtDisp with
    ox := some 5#8, oy := some 10#8, tb := pixels, txlog := [0xFF#8, 0x02#8, 0x02#8, 0x01#8, 0xAA#8, 0xAA#8] }

/-- P3's set_block with an answer. -/
def block (a : Answer) : BlockWrite := ⟨5#16, 10#16, 2#16, 2#16, [0xF800#16, 0x07E0#16, 0x001F#16, 0xFFFF#16], a⟩

/-- P3 after the render step, with the display's answer. -/
def shown (a : Answer) : State := { drawn with fsm := .rtWait, displog := [block a] }

/-! ### Well-formedness (R84) -/

theorem test_wf_perr_direct : Instr.rbPerr.wf .direct = false := by decide
theorem test_wf_perr_via_rb : Instr.rbPerr.wf .viaRb = true := by decide
theorem test_wf_get_via_rb : Instr.rbGet.wf .viaRb = true := by decide

/-! ### Decoding: R91 and V-DEC -/

theorem test_decode_put : decodeWord 0x10000041#32 = .ok (.rbPut 0x41#8) := by decide
theorem test_decode_perr : decodeWord 0x11000000#32 = .ok .rbPerr := by decide
theorem test_decode_get : decodeWord 0x20000000#32 = .ok .rbGet := by decide
theorem test_decode_hasdata : decodeWord 0x30000000#32 = .ok .rbHasdata := by decide
theorem test_decode_isempty : decodeWord 0x31000000#32 = .ok .rbIsempty := by decide
theorem test_decode_isfull : decodeWord 0x32000000#32 = .ok .rbIsfull := by decide
theorem test_decode_slots : decodeWord 0x33000000#32 = .ok .rbSlots := by decide
theorem test_decode_qc : decodeWord 0x40000000#32 = .ok .frQc := by decide
theorem test_decode_tile : decodeWord 0x4100FFFF#32 = .ok (.frTile 0xFFFF#16) := by decide
theorem test_decode_stat : decodeWord 0x42000000#32 = .ok .frStat := by decide
theorem test_decode_count : decodeWord 0x43000000#32 = .ok .frCount := by decide
theorem test_decode_origin : decodeWord 0x44000000#32 = .ok .frOrigin := by decide

/-- V-DEC-2 to V-DEC-5 and V-DEC-9. -/
theorem test_decode_reserved :
    decodeWord 0x10000141#32 = .error .putArgHigh ∧ decodeWord 0x40010000#32 = .error .rsvNonzero ∧
      decodeWord 0x12000000#32 = .error .opcUnknown ∧ decodeWord 0x42000001#32 = .error .argNonzero ∧
      decodeWord 0x40000001#32 = .error .argNonzero := by decide

/-- V-DEC-6. -/
theorem test_decode_perr_reserved : reservedWord .direct 0x11000000#32 = true ∧
    reservedWord .viaRb 0x11000000#32 = false := by decide

/-- V-FR-1 and R85. -/
theorem test_decode_count_frame : decodeTx [0xFF#8, 0x01#8] = .ok (.getImageCount, []) := by decide

/-- V-FR-2. -/
theorem test_decode_image_frame :
    decodeTx [0xFF#8, 0x02#8, 0x34#8, 0x12#8] = .ok (.getImage 0x1234#16, []) ∧
      decodeTx [0xFF#8, 0x02#8, 0xFF#8, 0xFF#8, 0xAA#8] = .ok (.getImage 0xFFFF#16, [0xAA#8]) := by decide

theorem test_decode_ready : decodeTx [0xAA#8] = .ok (.ready, []) := by decide

/-- R86: an unknown command code, a frame cut short, and bytes that start no frame. -/
theorem test_decode_bad_frames :
    decodeTx [0xFF#8, 0x03#8] = .error .cmdUnknown ∧ decodeTx [0xFF#8, 0x02#8, 0x00#8] = .error .shortFrame ∧
      decodeTx [0x00#8] = .error .notFrameStart ∧ decodeTx [] = .error .shortFrame := by decide

/-- R88: received bytes are read by position. -/
theorem test_decode_received :
    decodeRx .countPos 0x05#8 0x00#8 = .countResp 0x05#8 0x00#8 ∧
      decodeRx .headerPos 0x05#8 0x0A#8 = .tileHdr 0x05#8 0x0A#8 ∧
      decodeRx .pixelPos 0x00#8 0xF8#8 = .payloadPixel 0x00#8 0xF8#8 := by decide

/-- The table's numbers for the wire rows (R85): FF 01, FF 02 03 00 and AA. -/
theorem test_table_words :
    decodeTableWord 16 0xFF01 = some .getImageCount ∧ decodeTableWord 32 0xFF020300 = some (.getImage 0x0003#16) ∧
      decodeTableWord 8 0xAA = some .ready ∧ decodeTableWord 16 0x0500 = some (.countResp 0x05#8 0x00#8) ∧
      decodeTableWord 32 0x41000003 = some (.frTile 0x0003#16) ∧ decodeTableWord 8 0xAB = none ∧
      decodeTableWord 32 0x40010000 = none := by decide

/-! ### The ring buffer: V-RB -/

/-- V-RB-4: the put wraps. -/
theorem test_put_wraps : after (exec (.rbPut 0x44#8) (ring Config.built .prod [] 1 3))
    (fun t => (t.rbMem.read 3, t.wr, isFull t, t.faults)) = some (some 0x44#8, 0, true, FaultSet.empty) := by decide

/-- V-RB-7: the put on a full buffer. -/
theorem test_put_full : after (exec (.rbPut 0x55#8) (ring Config.built .prod four 1 0))
    (fun t => (t.rbMem.read 0, t.wr, isEmpty t, slots t, t.faults.rbPutFull)) =
      some (some 0x55#8, 1, true, 3, true) := by decide

/-- V-RB-14: two errors merge into one. -/
theorem test_perr_merges : after (exec .rbPerr { ring viaRb .prod [] 0 0 with linkErr := true })
    (fun t => (t.linkErr, t.faults)) = some (true, FaultSet.empty) := by decide

/-- V-DEC-6. -/
theorem test_perr_direct : after (exec .rbPerr (ring Config.built .prod [] 0 0))
    (fun t => (t.linkErr, t.faults.reserved)) = some (false, true) := by decide

/-- V-RB-6: the get wraps. -/
theorem test_get_wraps : after (exec .rbGet (ring Config.built .cons four 3 0))
    (fun t => (t.reslog, t.rd, isEmpty t)) = some ([⟨.cons, 0x0044#16⟩], 0, true) := by decide

/-- V-RB-8: the get on an empty buffer. -/
theorem test_get_empty : after (exec .rbGet (ring Config.built .cons [] 1 1))
    (fun t => (t.rd, isFull t, t.faults.rbGetEmpty)) = some (2, true, true) := by decide

/-- Status table of 2.2, rd = 3, wr = 2. -/
theorem test_status_full :
    after (exec .rbHasdata (ring Config.built .prod [] 3 2)) (·.reslog) = some [⟨.prod, 1#16⟩] ∧
      after (exec .rbIsempty (ring Config.built .cons [] 3 2)) (·.reslog) = some [⟨.cons, 0#16⟩] ∧
      after (exec .rbIsfull (ring Config.built .caller [] 3 2)) (·.reslog) = some [⟨.caller, 1#16⟩] ∧
      after (exec .rbSlots (ring Config.built .prod [] 3 2)) (·.reslog) = some [⟨.prod, 0#16⟩] := by decide

/-- V-RB-1: the status after reset. -/
theorem test_status_reset :
    after (exec .rbHasdata State.reset) (·.reslog) = some [⟨.prod, 0#16⟩] ∧
      after (exec .rbIsempty State.reset) (·.reslog) = some [⟨.prod, 1#16⟩] ∧
      after (exec .rbIsfull State.reset) (·.reslog) = some [⟨.prod, 0#16⟩] ∧
      after (exec .rbSlots State.reset) (·.reslog) = some [⟨.prod, 3#16⟩] := by decide

/-- V-RB-11 and V-RB-12: the deepest buffer. -/
theorem test_slots_huge : slots (State.resetFor huge) = 0xFFFF#16 ∧ isFull (ring huge .prod [] 0 0xFFFF) = true ∧
    slots (ring huge .prod [] 0 0xFFFF) = 0#16 := by decide

/-- V-RB-9: one byte fills a 2-slot buffer. -/
theorem test_put_tiny : after (exec (.rbPut 0x07#8) (ring tiny .prod [] 0 0))
    (fun t => (t.wr, isFull t, slots t)) = some (1, true, 0) := by decide

/-- V-DEC-7 and V-DEC-8: the port check. -/
theorem test_port :
    after (exec .frQc (ring Config.built .prod [] 0 0)) (fun t => (t.fsm, t.faults.port)) = some (.idle, true) ∧
      after (exec .rbGet (ring viaRb .caller four 0 1)) (fun t => (t.rd, t.faults.port)) = some (0, true) := by decide

/-! ### The control operations: V-FR -/

/-- V-FR-4 and V-FR-5. -/
theorem test_qc : after (exec .frQc { State.reset with issuer := .caller }) statWord = some 0x0001#16 ∧
    after (exec .frQc (tile Config.built (.rtTx 0))) (fun t => (t.fsm, t.faults.frBusy)) =
      some (.rtTx 0, true) := by decide

/-- V-FR-4 and V-FR-5. -/
theorem test_tile : after (exec (.frTile 0xFFFF#16) { State.reset with issuer := .caller })
      (fun t => (t.idx, statWord t)) = some (some 0xFFFF#16, 0x0009#16) ∧
    after (exec (.frTile 0x0007#16) (tile Config.built (.rtTx 0))) (fun t => (t.idx, t.faults.frBusy)) =
      some (some 0x0102#16, true) := by decide

/-- P6: STAT = 0x002E. -/
theorem test_stat : after (exec .frStat { shown .err with
    fsm := .idle, result := .displayWriteError, originValid := true }) (·.reslog) =
      some [⟨.caller, 0x002E#16⟩] := by decide

/-- V-FR-3 and V-FR-6. -/
theorem test_count :
    after (exec .frCount { query Config.built .idle with countValid := true, count := ⟨some 0x34#8, some 0x12#8⟩ })
      (·.reslog) = some [⟨.caller, 0x1234#16⟩] ∧
    after (exec .frCount (query Config.built .idle)) (fun t => (t.faults.undefRead, t.draws)) = some (true, 1) := by
  decide

/-- P3: FR.ORIGIN returns 0x0A05; V-FR-6. -/
theorem test_origin :
    after (exec .frOrigin { drawn with fsm := .idle, originValid := true }) (·.reslog) = some [⟨.caller, 0x0A05#16⟩] ∧
    after (exec .frOrigin { State.reset with issuer := .caller }) (fun t => (t.faults.undefRead, t.draws)) =
      some (true, 1) := by decide

/-! ### The wire patterns: V-FR, P2, P3 -/

/-- V-FR-1. -/
theorem test_count_frame :
    after (exec .getImageCount (query Config.built (.qcTx 0))) (fun t => (t.txlog, t.fsm)) = some ([0xFF#8], .qcTx 1) ∧
    after (exec .getImageCount (query Config.built (.qcTx 1))) (fun t => (t.txlog, t.fsm)) =
      some ([0x01#8], .qcRx 0) := by decide

/-- V-FR-2, idx = 0x1234: the last two bytes are 34 12. -/
theorem test_image_frame :
    after (exec (.getImage 0x1234#16) (tile Config.built (.rtTx 2))) (fun t => (t.txlog, t.fsm)) =
      some ([0x34#8], .rtTx 3) ∧
    after (exec (.getImage 0x1234#16) (tile Config.built (.rtTx 3))) (fun t => (t.txlog, t.fsm)) =
      some ([0x12#8], .rtHdr 0) := by decide

/-- P3's second ready byte, and R141: it waits for the sink. -/
theorem test_ready :
    after (exec .ready (tile Config.built (.rtRdy 1))) (fun t => (t.txlog, t.fsm)) = some ([0xAA#8], .rtPay 1 0) ∧
    after (exec .ready { tile Config.built (.rtRdy 1) with txReady := false }) (fun t => (t.txlog, t.fsm)) =
      some ([], .rtRdy 1) := by decide

/-- L1-6: 05 00 yields 5, and STAT = 0x0012 (P2). -/
theorem test_count_resp :
    after (exec (.countResp 0x05#8 0x00#8) (query Config.built (.qcRx 0))) (fun t => (t.count.lo, t.fsm)) =
      some (some 0x05#8, .qcRx 1) ∧
    after (exec (.countResp 0x05#8 0x00#8) (query Config.built (.qcRx 1))) (fun t => (t.count.hi, statWord t)) =
      some (some 0x00#8, 0x0012#16) := by decide

/-- P3: the header 05 0A. -/
theorem test_tile_hdr :
    after (exec (.tileHdr 0x05#8 0x0A#8) (tile Config.built (.rtHdr 0))) (fun t => (t.ox, t.oy, t.fsm)) =
      some (some 0x05#8, none, .rtHdr 1) ∧
    after (exec (.tileHdr 0x05#8 0x0A#8) (tile Config.built (.rtHdr 1))) (fun t => (t.ox, t.oy, t.fsm)) =
      some (none, some 0x0A#8, .rtRdy 0) := by decide

/-- P3: byte 1 of the payload is a high byte; its last byte ends the payload. -/
theorem test_payload :
    after (exec (.payloadPixel 0x00#8 0xF8#8) (tile Config.built (.rtPay 0 1))) (fun t => (t.tb, t.fsm)) =
      some ([(1, 0xF8#8)], .rtPay 0 2) ∧
    after (exec (.payloadPixel 0xFF#8 0xFE#8) (tile Config.built (.rtPay 1 3))) (fun t => (t.tb, t.fsm)) =
      some ([(7, 0xFE#8)], .rtDisp) := by decide

/-! ### Framer steps that are no instruction: V-FR, P3, P6 -/

/-- P3: the render step's call. -/
theorem test_render : (renderStep drawn).displog = [block .pending] ∧ (renderStep drawn).fsm = .rtWait ∧
    (renderStep drawn).draws = 0 := by decide

/-- P3 and P6: the answers. -/
theorem test_answers : statWord (awaitAnswer (shown .ok)) = 0x002A#16 ∧
    statWord (awaitAnswer (shown .err)) = 0x002E#16 ∧ awaitAnswer (shown .pending) = shown .pending ∧
    (displayAnswer true (shown .pending)).displog = [block .ok] := by decide

/-- V-FR-7: an abort in the header. -/
theorem test_abort_header :
    after (framerStep { tile Config.built (.rtHdr 0) with rxq := [.linkErr .framing] })
      (fun t => (statWord t, t.ox, t.rxq)) = some (0x000C#16, none, []) := by decide

/-- V-FR-8: an abort in the count; what was sent after the error stays. -/
theorem test_abort_count :
    after (framerStep { query Config.built (.qcRx 1) with
      count := ⟨some 0x05#8, none⟩, rxq := [.linkErr .overrun, .byte 0x00#8] })
      (fun t => (statWord t, t.count, t.rxq)) = some (0x0004#16, ⟨none, none⟩, [.byte 0x00#8]) := by decide

/-- V-FR-10: a pending link error goes before the buffered bytes. -/
theorem test_link_error_first :
    after (framerStep { query viaRb (.qcRx 0) with
      rbMem := [(0, 0x05#8), (1, 0x00#8)], wr := 2, linkErr := true })
      (fun t => (t.linkErr, t.rd, t.wr, t.fsm)) = some (false, 0, 2, .idle) := by decide

/-! ### The pixel converter and the mapper: 2.4, V-TR -/

theorem test_pixels : le16 0x34#8 0x12#8 = 0x1234#16 ∧ pixelBytes 0x1234#16 = (0x34#8, 0x12#8) ∧
    (pixelRed 0x1234#16, pixelGreen 0x1234#16, pixelBlue 0x1234#16) = (2, 17, 20) ∧
    (pixelRed 0xFFAA#16, pixelGreen 0xFFAA#16, pixelBlue 0xFFAA#16) = (31, 61, 10) ∧
    packPixel 2 17 20 = 0x1234#16 := by decide

/-- V-TR-1 and V-TR-2. -/
theorem test_mapper : pixelIndex eight 2 3 = some 19 ∧ pixelLo eight 2 3 = some 38 ∧ pixelHi eight 2 3 = some 39 ∧
    displayPos eight 5 10 2 3 = some (8, 12) ∧ pixelIndex { eight with tileW := 3, tileH := 2 } 1 2 = some 5 ∧
    pixelRowCol { eight with tileW := 3, tileH := 2 } 4 = some (1, 1) ∧
    pixelIndex { eight with tileW := 3, tileH := 2 } 2 0 = none := by decide

/-- V-TR-4: the farthest pixel. -/
theorem test_mapper_extreme :
    displayPos { eight with tileW := 256, tileH := 256 } 255 255 255 255 = some (510, 510) := by decide

/-! ### The end of a run (R287) -/

/-- An agent step that is no operation may be left; an operation, an unanswered set_block and a request may not. -/
theorem test_finished :
    finished { shown .ok with fsm := .idle, agenda := [.framer, .hostDrop] } ∧
      ¬ finished { shown .ok with fsm := .idle, agenda := [.framer, .issue .caller 0x42000000#32] } ∧
      ¬ finished { shown .pending with fsm := .idle } ∧ ¬ finished (shown .ok) :=
  ⟨⟨rfl, by simp, by rintro b ⟨⟩; decide⟩, fun h => h.2.1 .caller 0x42000000#32 (by decide),
    fun h => h.2.2 (block .pending) rfl rfl, fun h => nomatch h.1⟩

theorem test_good_run : goodRun State.reset ∧ ¬ goodRun { State.reset with faults := FaultSet.empty.add .port } :=
  ⟨⟨⟨rfl, by rintro _ _ ⟨⟩, by rintro b ⟨⟩⟩, rfl⟩, fun h => nomatch h.2⟩

/-- P2's end state. -/
theorem test_observe :
    observe { query viaRb .idle with
        rbMem := [(0, 0x05#8), (1, 0x00#8)], rd := 2, wr := 2, result := .ok, countValid := true
        count := ⟨some 0x05#8, some 0x00#8⟩, txlog := [0xFF#8, 0x01#8] } =
      ⟨.ok, ⟨some 0x05#8, some 0x00#8⟩, true, none, none, false, [0xFF#8, 0x01#8], [], 2, 2, [], []⟩ := by decide

/-- P2: PROD puts 05 where the framer would hold, and the framer takes it. -/
theorem test_relay : after (relayRun 1 [0x05#8, 0x00#8] (query viaRb (.qcRx 0)))
    (fun t => (t.rd, t.wr, t.count.lo, t.fsm, t.reslog)) =
      some (1, 1, some 0x05#8, .qcRx 1, [⟨.prod, 0#16⟩]) := by decide

/-! ### Placing an instruction for the next step (log entry 4) -/

/-- The first step after reset runs an operation word. -/
theorem test_place_words :
    after (step (State.reset.withFetchWord 32 0x10000041)) (fun t => (t.rbMem, t.wr)) = some ([(0, 0x41#8)], 1) ∧
      after (step (State.reset.withFetchWord 32 0x31000000)) (·.reslog) = some [⟨.caller, 1#16⟩] ∧
      after (step (State.reset.withFetchWord 32 0x41000003)) (fun t => (t.idx, t.fsm)) =
        some (some 0x0003#16, .rtTx 0) ∧
      after (step (State.reset.withFetchWord 32 0x40010000)) (·.faults.reserved) = some true := by decide

/-- The first step after reset runs a wire pattern's first byte. -/
theorem test_place_wire :
    after (step (State.reset.withFetchWord 16 0xFF01)) (·.txlog) = some [0xFF#8] ∧
      after (step (State.reset.withFetchWord 8 0xAA)) (·.txlog) = some [0xAA#8] ∧
      after (step (State.reset.withFetchWord 32 0xFF020300)) (fun t => (t.txlog, t.idx)) =
        some ([0xFF#8], some 0x0003#16) ∧
      after (step (State.reset.withFetchWord 16 0x0500)) (fun t => (t.count.lo, t.rxq)) =
        some (some 0x05#8, [.byte 0x00#8]) := by decide

/-- The same for a block that reads through the ring buffer. -/
theorem test_place_via_rb :
    after (step ((State.resetFor viaRb).withFetchWord 32 0x11000000)) (·.linkErr) = some true ∧
      after (step ((State.resetFor viaRb).withFetchWord 16 0x0500)) (fun t => (t.count.lo, t.rd, t.wr)) =
        some (some 0x05#8, 1, 2) := by decide

/-! ### Witnesses: the hypotheses of each obligation, met together, each clause at a boundary of its range -/

/-- The next step is this agent step. -/
def next (e : AgentStep) (s : State) : State := placeStep e s

/-- WorkedEncodingsDecode, OpWordNumbers, OpWordsDecodeExactly, ReservedWordsAreExactly, TableNumberRoundTrip and
HoldsChangeNothing have no hypothesis that empties them: their clauses at the ends of their ranges. -/
theorem witness_encodings :
    encodeWord (.rbPut 0x00#8) = some 0x10000000#32 ∧ encodeWord (.rbPut 0xFF#8) = some 0x100000FF#32 ∧
      encodeWord (.frTile 0xFFFF#16) = some 0x4100FFFF#32 ∧ reservedWord .direct 0x45000000#32 = true ∧
      reservedWord .viaRb 0x44000000#32 = false ∧ reservedWord .viaRb 0x100000FF#32 = false ∧
      encode (.getImage 0xFFFF#16) = (32, 0xFF02FFFF) ∧ rxPosOf (.tileHdr 0xFF#8 0x00#8) = some .headerPos := by decide

theorem witness_SentFramesDecode : (0x00#8 : Byte) ≠ 0x01#8 ∧ (0x00#8 : Byte) ≠ 0x02#8 ∧
    decodeTx [0xFF#8, 0x00#8] = .error .cmdUnknown := by decide

/-- ResetState and ResetMeetsInvariants: the smallest and the largest block. -/
theorem witness_Reset : Config.built.ok = true ∧ (Params.mk 1 1 1 1 .direct).ok = true ∧
    (Params.mk 16 256 256 131072 .viaRb).ok = true ∧ (Params.mk 1 2 2 3 .direct).ok = false := by decide

theorem witness_StepRunsIssuedOperation :
    (next (.issue .cons 0x20000000#32) State.reset).cfg.ok = true ∧
      (next (.issue .cons 0x20000000#32) State.reset).agenda = [.issue .cons 0x20000000#32] ∧
      State.reset.cfg.rxPath = .direct ∧ decodeWord 0x20000000#32 = .ok .rbGet ∧
      (next (.issue .prod 0x11000000#32) (State.resetFor viaRb)).cfg.ok = true ∧ Agent.prod ≠ .cons ∧
      decodeWord 0x11000000#32 = .ok .rbPerr := by decide

theorem witness_StepRejectsReservedWord :
    (next (.issue .cons 0x11000000#32) State.reset).cfg.ok = true ∧
      (next (.issue .cons 0x11000000#32) State.reset).agenda = [.issue .cons 0x11000000#32] ∧
      State.reset.cfg.rxPath = .direct ∧ reservedWord .direct 0x11000000#32 = true ∧
      reservedWord .viaRb 0x40000001#32 = true := by decide

theorem witness_StepRunsSentPattern :
    (next .framer (tile Config.built (.rtTx 3))).cfg.ok = true ∧
      (next .framer (tile Config.built (.rtTx 3))).agenda = [.framer] ∧
      (tile Config.built (.rtTx 3)).idx = some 0x0102#16 ∧ (tile Config.built (.rtTx 0)).fsm = .rtTx 0 ∧
      (query Config.built (.qcTx 0)).fsm = .qcTx 0 ∧ (query Config.built (.qcTx 1)).fsm = .qcTx 1 ∧
      (tile Config.built (.rtRdy 0)).fsm = .rtRdy 0 ∧ drawn.fsm = .rtDisp ∧ (shown .ok).fsm = .rtWait ∧
      State.reset.fsm = .idle := by decide

/-- A byte, a link error and nothing to take, at every receiving position. -/
theorem witness_StepRunsReceivedPattern :
    (next .framer (query Config.built (.qcRx 0))).cfg.ok = true ∧
      (next .framer (query Config.built (.qcRx 0))).agenda = [.framer] ∧
      (∀ f ∈ [Fsm.qcRx 0, .qcRx 1, .rtHdr 0, .rtHdr 1, .rtPay 0 0, .rtPay 1 3], f.receives = true ∧
        rxTake { query Config.built f with rxq := [.byte 7#8] } = .byte 7#8 (query Config.built f) ∧
        rxTake { query Config.built f with rxq := [.linkErr .parity] } =
          .linkErr (some .parity) (query Config.built f) ∧
        rxTake (query Config.built f) = .hold) ∧
      (0 * Config.built.chunk + 0) % 2 = 0 ∧ (1 * Config.built.chunk + 3) % 2 = 1 := by decide

theorem witness_StepsOfHostAndDisplay :
    (next (.hostSend (.byte 5#8)) State.reset).cfg.ok = true ∧ State.reset.cfg.rxPath = .direct ∧
      (next (.hostSend (.byte 5#8)) State.reset).agenda = [.hostSend (.byte 5#8)] ∧
      (State.resetFor viaRb).cfg.rxPath = .viaRb ∧ (State.resetFor viaRb).cfg.ok = true ∧
      (next (.hostSink false) State.reset).agenda = [.hostSink false] ∧
      (next .hostDrop State.reset).agenda = [.hostDrop] ∧
      (next (.dispAnswer true) (shown .pending)).agenda = [.dispAnswer true] ∧ State.reset.displog = [] ∧
      (shown .ok).displog = [] ++ [block .ok] ∧ (block .ok).answer ≠ .pending ∧
      (shown .pending).displog = [] ++ [block .pending] ∧ (block .pending).answer = .pending := by decide

/-- Each stop at the first index that does not exist. -/
theorem witness_ScheduleAndStops : State.reset.agenda = [] ∧
    (State.resetFor { Config.built with log2n := 0 }).cfg.ok = false ∧
    (next (.issue .cons 0x30000000#32) (State.resetFor viaRb)).cfg.ok = true ∧
    (next (.issue .cons 0x30000000#32) (State.resetFor viaRb)).cfg.rxPath = .viaRb ∧
    (next (.issue .cons 0x30000000#32) (State.resetFor viaRb)).agenda = [.issue .cons 0x30000000#32] ∧
    Config.built.mask < 4#16 ∧ (ring Config.built .prod [] 0 4).wr = 4 ∧
    (ring Config.built .cons [] 4 0).cfg.rxPath = .direct ∧ (ring Config.built .cons [] 4 0).rd = 4 ∧
    (query viaRb (.qcRx 1)).fsm.receives = true ∧ (query viaRb (.qcRx 1)).linkErr = false ∧
    (tile Config.built (.rtPay 2 0)).fsm = .rtPay 2 0 ∧ Config.built.payload ≤ 2 * Config.built.chunk + 0 := by decide

/-- RingStatusLaws, CursorArithmetic, SlotsReads, FifoPerOperation: cursors at 0 and at MASK, full, empty and between. -/
theorem witness_cursors : Config.built.ok = true ∧ (0#16 : HWord) ≤ Config.built.mask ∧ (3#16 : HWord) ≤ Config.built.mask ∧
    Config.built.mask = 3#16 ∧ (buffered (ring Config.built .prod four 0 3)).length = 3 ∧
    (buffered (ring Config.built .prod four 3 3)).length = 0 ∧ isFull (ring Config.built .prod four 0 2) = false ∧
    isEmpty (ring Config.built .cons four 3 0) = false ∧ huge.ok = true ∧ huge.mask = 0xFFFF#16 := by decide

theorem witness_PutStoresAndAdvances : (ring Config.built .prod four 0 3).issuer = .prod ∧
    (ring Config.built .prod four 0 3).wr ≤ (ring Config.built .prod four 0 3).cfg.mask ∧
    (ring Config.built .prod four 0 3).wr = Config.built.mask := by decide

theorem witness_PutOnFullEmpties : (ring Config.built .prod four 1 0).cfg.ok = true ∧
    (ring Config.built .prod four 1 0).issuer = .prod ∧ (1#16 : HWord) ≤ Config.built.mask ∧
    (0#16 : HWord) ≤ Config.built.mask ∧
    (buffered (ring Config.built .prod four 1 0)).length = Config.built.depth - 1 := by decide

theorem witness_GetTakesOldest : (ring Config.built .cons four 3 0).issuer = .cons ∧
    (ring Config.built .cons four 3 0).cfg.rxPath = .direct ∧ (3#16 : HWord) ≤ Config.built.mask ∧
    (ring Config.built .cons four 3 0).rd ≠ (ring Config.built .cons four 3 0).wr ∧
    (ring Config.built .cons four 3 0).rbMem.read 3 = some 0x44#8 := by decide

/-- An empty buffer with its slot written, and a slot nothing has written. -/
theorem witness_GetDrawsWhereNothingIs : (ring Config.built .cons four 3 3).cfg.ok = true ∧
    (ring Config.built .cons four 3 3).issuer = .cons ∧ (ring Config.built .cons four 3 3).cfg.rxPath = .direct ∧
    (3#16 : HWord) ≤ Config.built.mask ∧ (ring Config.built .cons four 3 3).rd = (ring Config.built .cons four 3 3).wr ∧
    (ring Config.built .cons [] 0 3).rbMem.read 0 = none ∧ (ring Config.built .cons [] 0 3).rd ≠ 3 := by decide

theorem witness_LinkErrorReport : (ring viaRb .prod [] 0 0).cfg.rxPath = .viaRb ∧
    (ring viaRb .prod [] 0 0).issuer = .prod ∧ (ring Config.built .host [] 0 0).cfg.rxPath = .direct := by decide

/-- HasDataReads, IsEmptyReads and IsFullReads: every clause. -/
theorem witness_status_reads : (ring Config.built .cons four 0 3).cfg.rxPath = .direct ∧
    (ring Config.built .prod four 0 3).rd ≠ (ring Config.built .prod four 0 3).wr ∧
    (ring Config.built .prod four 3 3).rd = (ring Config.built .prod four 3 3).wr ∧
    isFull (ring Config.built .prod four 0 3) = true ∧ (ring Config.built .prod four 0 3).wr = Config.built.mask ∧
    (0#16 : HWord) = ((3#16 : HWord) + 1#16) &&& Config.built.mask ∧
    (1#16 : HWord) ≠ ((3#16 : HWord) + 1#16) &&& Config.built.mask ∧ tiny.ok = true ∧ tiny.depth = 2 ∧
    (after (exec (.rbPut 0x55#8) (ring Config.built .prod four 0 3)) isEmpty) = some true := by decide

theorem witness_FifoPerOperation :
    after (exec (.rbPut 0x44#8) (ring Config.built .prod four 1 3)) buffered =
      some (buffered (ring Config.built .prod four 1 3) ++ [some 0x44#8]) ∧
    after (exec .rbGet (ring Config.built .cons four 3 0)) buffered = some [] ∧
    rxTake (ring viaRb .fr four 3 0) = .byte 0x44#8 (ring viaRb .fr four 0 0) := by decide

theorem witness_FifoOverRuns :
    (ring Config.built .prod four 3 0).cfg.ok = true ∧ (ring Config.built .prod four 3 0).cfg.rxPath = .direct ∧
      (∀ v ∈ buffered (ring Config.built .prod four 3 0), v.isSome) ∧
      after (ringRun [some 0x55#8, none] (ring Config.built .prod four 3 0))
        (fun t => (t.faults.rbPutFull, t.faults.rbGetEmpty, t.rd, t.wr)) = some (false, false, 0, 1) :=
  have h : buffered (ring Config.built .prod four 3 0) = [some 0x44#8] := by decide
  ⟨by decide, by decide, by rw [h]; simp, by decide⟩

theorem witness_PortViolations :
    portOf (.rbPut 0#8) = some .producer ∧ (Instr.rbPut 0#8).wf .direct = true ∧ Agent.cons ≠ .prod ∧
      portOf .rbGet = some .consumer ∧ Instr.rbGet.wf .viaRb = true ∧ Agent.prod ≠ .cons ∧
      (State.resetFor viaRb).cfg.rxPath = .viaRb ∧ portOf (.frTile 0#16) = some .control ∧ Agent.disp ≠ .caller := by
  decide

/-- QueryAccepted, TileAccepted, StatReads, CountReads and OriginReads: idle and busy, valid and not. -/
theorem witness_control : (query Config.built .idle).issuer = .caller ∧ (query Config.built .idle).fsm = .idle ∧
    (tile Config.built (.rtTx 0)).issuer = .caller ∧ (tile Config.built (.rtTx 0)).fsm ≠ .idle ∧
    (shown .ok).fsm ≠ .idle ∧ (query Config.built .idle).countValid = false ∧
    (query Config.built .idle).originValid = false ∧ drawn.issuer = .caller ∧ drawn.ox = some 5#8 ∧
    drawn.oy = some 10#8 ∧
    { query Config.built .idle with countValid := true, count := ⟨some 0xFF#8, some 0xFF#8⟩ }.countValid = true := by
  decide

/-- CountFrameSent, ImageFrameSent, ReadySent and HoldsChangeNothing: every position's ends, sink ready or not, and a
state in which `fsm` stands in no pattern. -/
theorem witness_sends : (query Config.built (.qcTx 0)).txReady = true ∧ (query Config.built (.qcTx 1)).fsm = .qcTx 1 ∧
    (tile Config.built (.rtTx 0)).txReady = true ∧ (tile Config.built (.rtTx 3)).fsm = .rtTx 3 ∧
    (tile Config.built (.rtRdy 0)).txReady = true ∧
    { tile Config.built (.rtRdy 0) with txReady := false }.txReady = false ∧
    (∀ f ∈ [Fsm.qcRx 1, .rtHdr 0, .rtPay 0 0], f.receives = true) ∧ (query Config.built (.qcRx 0)).rxq = [] ∧
    (query viaRb (.qcRx 0)).linkErr = false ∧ (query viaRb (.qcRx 0)).rd = (query viaRb (.qcRx 0)).wr ∧
    (∀ k, Fsm.rtDisp ≠ .qcTx k) ∧ (∀ k, Fsm.rtDisp ≠ .rtTx k) ∧ (∀ k, Fsm.rtDisp ≠ .qcRx k) ∧
    (∀ k, Fsm.rtDisp ≠ .rtHdr k) := by decide

/-- CountResponseStored, HeaderStored and PayloadStored: every clause, the payload at its first byte, at a chunk's last
byte and at its own last byte. -/
theorem witness_receives : (query Config.built (.qcRx 1)).lastOp = .queryCount ∧
    (query Config.built (.qcRx 0)).fsm = .qcRx 0 ∧ (tile Config.built (.rtHdr 1)).fsm = .rtHdr 1 ∧
    Config.built.ok = true ∧ 0 < Config.built.nchunk ∧ 0 + 1 < Config.built.chunk ∧ 3 + 1 = Config.built.chunk ∧
    0 + 1 < Config.built.nchunk ∧ 1 + 1 = Config.built.nchunk ∧ (tile Config.built (.rtPay 1 3)).fsm = .rtPay 1 3 := by
  decide

theorem witness_RenderIssuesBlock : drawn.cfg.ok = true ∧ drawn.fsm = .rtDisp ∧ drawn.ox = some 5#8 ∧
    drawn.oy = some 10#8 ∧ ∀ p < drawn.cfg.payload, drawn.tb.read p = some ((pixels.map (·.2)).getD p 0#8) := by decide

theorem witness_WaitForDisplay : (shown .ok).fsm = .rtWait ∧ (shown .ok).lastOp = .requestTile ∧
    (∀ a, a = .pending ∨ a = .ok ∨ a = .err → (shown a).displog = [] ++ [block a] ∧ (block a).answer = a) := by
  refine ⟨rfl, rfl, fun a _ => ⟨rfl, rfl⟩⟩

/-- PixelSequence and MapperBijection: first and last index, and one out of range. -/
theorem witness_mapper : eight.ok = true ∧ 0 < eight.npix ∧ 63 < eight.npix ∧ ¬ 64 < eight.npix ∧ 7 < eight.tileH ∧
    7 < eight.tileW ∧ pixelIndex eight 0 0 = some 0 ∧ pixelIndex eight 7 7 = some 63 ∧ pixelIndex eight 8 0 = none := by
  decide

/-! ### Witnesses: states that meet the invariant -/

theorem inv_reset : Inv State.reset := by
  constructor <;> first | decide | exact trivial | (unfold tileWritten; decide)

/-- When DIRECT, any tokens may be queued. -/
theorem inv_queue {s : State} (h : Inv s) (hd : s.cfg.rxPath = .direct) (q : List Token) : Inv { s with rxq := q } :=
  { h with rxqPath := fun hv => nomatch hd.symm.trans hv }

theorem inv_query : Inv (query Config.built (.qcRx 0)) := by
  constructor <;> first | decide | exact rfl | (unfold tileWritten; decide)

/-- When VIA_RB, a link error may be pending. -/
theorem inv_pending {s : State} (h : Inv s) (hv : s.cfg.rxPath = .viaRb) (e : Bool) : Inv { s with linkErr := e } :=
  { h with linkErrPath := fun hd => nomatch hv.symm.trans hd }

theorem inv_via_rb : Inv { query viaRb (.qcRx 0) with rbMem := four, rd := 3 } := by
  constructor <;> first | decide | exact rfl | (unfold tileWritten; decide)

theorem inv_via_rb_empty : Inv (query viaRb (.qcRx 0)) := by
  constructor <;> first | decide | exact rfl | (unfold tileWritten; decide)

theorem inv_via_rb_unwritten : Inv { query viaRb (.qcRx 0) with rd := 3 } := by
  constructor <;> first | decide | exact rfl | (unfold tileWritten; decide)

theorem inv_tile : Inv { drawn with fsm := .rtPay 1 3 } := by
  constructor <;> first | decide | exact ⟨rfl, by decide, by decide⟩ | (unfold tileWritten; decide)

theorem inv_drawn : Inv (next .framer drawn) := by
  constructor <;> first | decide | exact rfl | (unfold tileWritten; decide)

theorem inv_shown : Inv (next (.dispAnswer true) (shown .pending)) := by
  constructor <;> first | decide | exact rfl | (unfold tileWritten; decide)

theorem inv_cons_via_rb : Inv (next (.issue .cons 0x30000000#32) (State.resetFor viaRb)) := by
  constructor <;> first | decide | exact trivial | (unfold tileWritten; decide)

/-- ReceiveDirect and LinkErrorAborts: nothing queued, a byte, a link error in a QueryCount and at the payload's end. -/
theorem witness_ReceiveDirect :
    (∀ q, Inv { query Config.built (.qcRx 0) with rxq := q }) ∧
      (query Config.built (.qcRx 0)).cfg.rxPath = .direct ∧ (query Config.built (.qcRx 0)).fsm.receives = true ∧
      (∀ q, Inv { drawn with fsm := .rtPay 1 3, rxq := q }) ∧
      (Fsm.rtPay 1 3).receives = true ∧ (query Config.built (.qcRx 0)).lastOp = .queryCount ∧
      drawn.lastOp = .requestTile ∧
      after (framerStep { query Config.built (.qcRx 0) with rxq := [.byte 0x34#8] }) (storedAt (.qcRx 0)) =
        some (some 0x34#8) ∧
      after (framerStep { drawn with fsm := .rtPay 1 3, rxq := [.byte 0x34#8] }) (storedAt (.rtPay 1 3)) =
        some (some 0x34#8) :=
  ⟨inv_queue inv_query rfl, rfl, rfl, inv_queue inv_tile rfl, rfl, rfl, rfl, by decide, by decide⟩

/-- ReceiveViaRb and LinkErrorAborts: a pending link error with bytes buffered, a byte, a slot that nothing has written,
and nothing buffered. -/
theorem witness_ReceiveViaRb :
    (∀ e, Inv { query viaRb (.qcRx 0) with rbMem := four, rd := 3, linkErr := e }) ∧ Inv (query viaRb (.qcRx 0)) ∧
      (query viaRb (.qcRx 0)).cfg.rxPath = .viaRb ∧ (query viaRb (.qcRx 0)).fsm.receives = true ∧
      (query viaRb (.qcRx 0)).wr ≠ 3#16 ∧ (query viaRb (.qcRx 0)).rd = (query viaRb (.qcRx 0)).wr ∧
      { query viaRb (.qcRx 0) with rbMem := four, rd := 3 }.rbMem.read 3 = some 0x44#8 ∧
      after (framerStep { query viaRb (.qcRx 0) with rbMem := four, rd := 3 }) (storedAt (.qcRx 0)) =
        some (some 0x44#8) ∧
      Inv { query viaRb (.qcRx 0) with rd := 3 } ∧ { query viaRb (.qcRx 0) with rd := 3 }.rbMem.read 3 = none :=
  ⟨inv_pending inv_via_rb rfl, inv_via_rb_empty, rfl, rfl, by decide, rfl, by decide, by decide,
    inv_via_rb_unwritten, rfl⟩

/-- TxTrace at P3's render step: one request, nothing ended. -/
theorem trace_drawn : TxTrace (next .framer drawn) := ⟨[], by simp, by decide⟩

theorem written_full : RingWritten (ring Config.built .prod four 1 0) := by
  have h : buffered (ring Config.built .prod four 1 0) = [some 0x42#8, some 0x43#8, some 0x44#8] := by decide
  intro _ _; rw [h]; simp

/-- StepKeepsInvariant, StepKeepsTxTrace, StepKeepsRingWritten and BlockWriteOncePerTransfer. -/
theorem witness_StepKeeps :
    Inv (next .framer drawn) ∧ TxTrace (next .framer drawn) ∧ Inv (next (.dispAnswer true) (shown .pending)) ∧
      RingWritten (ring Config.built .prod four 1 0) ∧ after (step (next .framer drawn)) (fun t => (t.fsm, t.displog)) =
        some (.rtWait, [block .pending]) ∧
      after (agentStep .framer { drawn with fsm := .rtPay 1 3, rxq := [.byte 0xFF#8] }) (·.fsm) = some .rtDisp :=
  ⟨inv_drawn, trace_drawn, inv_shown, written_full, by decide, by decide⟩

/-- NothingStopsTheBlock: both of its outcomes. -/
theorem witness_NothingStopsTheBlock :
    Inv (next .framer drawn) ∧ Inv (next (.issue .cons 0x30000000#32) (State.resetFor viaRb)) ∧
      (after (step (next (.issue .cons 0x30000000#32) (State.resetFor viaRb))) (·.fsm)) = none :=
  ⟨inv_drawn, inv_cons_via_rb, by decide⟩

/-- FaultsHaveTheirCauses and AccessSummary: a step of each kind of agent answers a next state, and a cause of each code
can hold. -/
theorem witness_agent_steps :
    after (agentStep (.issue .prod 0x10000041#32) (ring Config.built .prod four 0 3)) (·.faults.rbPutFull) =
        some true ∧
      after (agentStep (.issue .cons 0x20000000#32) State.reset) (·.faults.rbGetEmpty) = some true ∧
      after (agentStep (.issue .caller 0x40000000#32) drawn) (·.faults.frBusy) = some true ∧
      after (agentStep (.issue .host 0x12000000#32) drawn) (·.faults.reserved) = some true ∧
      after (agentStep (.issue .disp 0x42000000#32) drawn) (·.faults.port) = some true ∧
      after (agentStep (.issue .caller 0x44000000#32) drawn) (·.faults.undefRead) = some true ∧
      after (agentStep .framer drawn) (·.fsm) = some .rtWait ∧
      after (agentStep (.hostSend (.byte 7#8)) drawn) (·.rxq) = some [.byte 7#8] ∧
      after (agentStep (.dispAnswer false) (shown .pending)) (·.displog) = some [block .err] := by decide

/-- CheckThenAct: HASDATA read 1 and FULL read 0, and a step that is neither misuse. -/
theorem witness_CheckThenAct : Inv { query viaRb (.qcRx 0) with rbMem := four, rd := 3, linkErr := true } ∧
    hasData { query viaRb (.qcRx 0) with rbMem := four, rd := 3 } = true ∧
    isFull { query viaRb (.qcRx 0) with rbMem := four, rd := 3 } = false ∧
    after (agentStep (.issue .prod 0x10000041#32) { query viaRb (.qcRx 0) with rbMem := four, rd := 3 })
      (fun t => (hasData t, t.wr)) = some (true, 1) ∧
    after (agentStep .framer { query viaRb (.qcRx 0) with rbMem := four, rd := 3 })
      (fun t => (isFull t, t.rd)) = some (false, 0) :=
  ⟨inv_pending inv_via_rb rfl true, by decide, by decide, by decide, by decide⟩

/-- P5 before its second request: the residue 05 00 is buffered. -/
def residue : State := { State.resetFor viaRb with rbMem := [(0, 0x05#8), (1, 0x00#8)], wr := 2 }

/-- One pixel in chunks of one byte, N = 2, VIA_RB. -/
def pixelViaRb : State := State.resetFor (Params.mk 1 1 1 1 .viaRb)

/-- Nothing is buffered, and PROD relays the whole response (P2). -/
theorem relays_all (response : List Byte) : Relays pixelViaRb [] response response [] :=
  ⟨by decide, rfl, rfl, rfl, by decide, by decide, by decide, by simp, .inl rfl⟩

/-- Part of the response is buffered, and PROD relays what is missing. -/
theorem relays_part : Relays { pixelViaRb with rbMem := [(1, 0x05#8)], rd := 1 } [0x05#8] [0x0A#8, 0x34#8, 0x12#8]
    [0x05#8, 0x0A#8, 0x34#8, 0x12#8] [] :=
  ⟨by decide, rfl, rfl, rfl, by decide, by decide, by decide, rfl, .inl rfl⟩

/-- The whole response is buffered (P5), and a byte more than it. -/
theorem relays_residue : Relays residue [0x05#8, 0x00#8] [] [0x05#8, 0x00#8] [] ∧
    Relays { residue with rbMem := [(0, 0x05#8), (1, 0x00#8), (2, 0x07#8)], wr := 3 } [0x05#8, 0x00#8, 0x07#8] []
      [0x05#8, 0x00#8] [0x07#8] :=
  ⟨⟨by decide, rfl, rfl, rfl, by decide, by decide, by decide, rfl, .inr rfl⟩,
    ⟨by decide, rfl, rfl, rfl, by decide, by decide, by decide, rfl, .inr rfl⟩⟩

/-- QueryCountTransfer: from RXQ, in a run that is good; from the ring buffer, relayed, buffered, and with a byte left. -/
theorem witness_QueryCountTransfer :
    { State.reset with rxq := [.byte 5#8, .byte 0#8] }.cfg.rxPath = .direct ∧
      { State.reset with rxq := [.byte 5#8, .byte 0#8] }.txReady = true ∧
      { State.reset with rxq := [.byte 5#8, .byte 0#8] }.rxq = .byte 5#8 :: .byte 0#8 :: [] ∧ goodRun State.reset ∧
      Relays pixelViaRb [] [0x05#8, 0x00#8] [0x05#8, 0x00#8] [] ∧
      Relays residue [0x05#8, 0x00#8] [] [0x05#8, 0x00#8] [] ∧
      Relays { residue with rbMem := [(0, 0x05#8), (1, 0x00#8), (2, 0x07#8)], wr := 3 } [0x05#8, 0x00#8, 0x07#8] []
        [0x05#8, 0x00#8] [0x07#8] :=
  ⟨rfl, rfl, rfl, test_good_run.1, relays_all _, relays_residue.1, relays_residue.2⟩

/-- CompleteTransfer and AbortedTransfer when VIA_RB: the whole payload, and a link error before its first or last byte. -/
theorem witness_transfers_via_rb :
    Relays pixelViaRb [] [0x05#8, 0x0A#8, 0x34#8, 0x12#8] (0x05#8 :: 0x0A#8 :: [0x34#8, 0x12#8]) [] ∧
      Relays { pixelViaRb with rbMem := [(1, 0x05#8)], rd := 1 } [0x05#8] [0x0A#8, 0x34#8, 0x12#8]
        (0x05#8 :: 0x0A#8 :: [0x34#8, 0x12#8]) [] ∧
      ([0x34#8, 0x12#8] : List Byte).length = pixelViaRb.cfg.payload ∧
      Relays pixelViaRb [] [0x05#8, 0x0A#8] (0x05#8 :: 0x0A#8 :: []) [] ∧
      Relays pixelViaRb [] [0x05#8, 0x0A#8, 0x34#8] (0x05#8 :: 0x0A#8 :: [0x34#8]) [] ∧
      Relays { residue with rbMem := [(0, 0x05#8), (1, 0x00#8), (2, 0x07#8)], wr := 3 } [0x05#8, 0x00#8, 0x07#8] []
        (0x05#8 :: 0x00#8 :: []) [0x07#8] ∧
      ([] : List Byte).length < pixelViaRb.cfg.payload ∧ ([0x34#8] : List Byte).length < pixelViaRb.cfg.payload ∧
      ([] : List Byte).length < residue.cfg.payload :=
  ⟨relays_all _, relays_part, by decide, relays_all _, relays_all _, relays_residue.2, by decide, by decide,
    by decide⟩

/-- CompleteTransfer and AbortedTransfer when DIRECT, on the smallest tile: two bytes, and a link error before the first or the last. -/
theorem witness_transfers : (Params.mk 1 1 1 1 .direct).ok = true ∧ (Params.mk 1 1 1 1 .direct).payload = 2 ∧
    (State.resetFor (Params.mk 1 1 1 1 .direct)).txReady = true ∧
    ([0x34#8, 0x12#8] : List Byte).length = (Params.mk 1 1 1 1 .direct).payload ∧
    ([] : List Byte).length < (Params.mk 1 1 1 1 .direct).payload ∧
    ([0x34#8] : List Byte).length < (Params.mk 1 1 1 1 .direct).payload ∧
    { State.resetFor (Params.mk 1 1 1 1 .direct) with
        rxq := [.byte 5#8, .byte 10#8, .byte 0x34#8, .linkErr .parity, .byte 9#8] }.rxq =
      .byte 5#8 :: .byte 10#8 :: ([0x34#8].map Token.byte ++ .linkErr .parity :: [.byte 9#8]) := by decide

end Sys2Proof.Tests
end

section
/-! PROOF. The access summary (R40): what each kind of agent step writes and what it leaves unchanged. -/

namespace Sys2Proof.Machine

/-! ### What an operation word writes -/

/-- `t` differs from `u` at most in what an operation reports: fault codes, result words and the count of draws. -/
def ReportsOnly (u t : State) : Prop := ∃ f r d, t = { u with faults := f, reslog := r, draws := d }

theorem reportsOnly_answer (v : HWord) (u : State) : ReportsOnly u (answer v u) := ⟨_, _, _, rfl⟩

theorem reportsOnly_answer_drawn {v : HWord} {u w : State} (h : w = u ∨ w = countDraw u) :
    ReportsOnly u (answer v w) := by
  rcases h with rfl | rfl <;> exact ⟨_, _, _, rfl⟩

/-- Only five operations write more than they report, each for the owner of its port (R40): RB.PUT the ring buffer at
`wr`, RB.GET `rd`, RB.PERR `link_err`, FR.QC and FR.TILE the request registers. -/
theorem OpNext.writes {u t : State} {i : Instr} (h : OpNext u i t) :
    ReportsOnly u t ∨
      (u.issuer = .prod ∧ ∃ b, i = .rbPut b ∧ ReportsOnly (ringStore b u) t) ∨
      (u.issuer = .prod ∧ i = .rbPerr ∧ u.cfg.rxPath = .viaRb ∧ ReportsOnly { u with linkErr := true } t) ∨
      (u.issuer = .cons ∧ i = .rbGet ∧ u.cfg.rxPath = .direct ∧ ReportsOnly (ringDrop u) t) ∨
      (u.issuer = .caller ∧ i = .frQc ∧ ReportsOnly (acceptQueryCount u) t) ∨
      (u.issuer = .caller ∧ ∃ idx, i = .frTile idx ∧ ReportsOnly (acceptRequestTile idx u) t) := by
  cases h with
  | port | perrDirect | queryBusy | tileBusy | countUndef | originUndef => exact .inl ⟨_, _, _, rfl⟩
  | status | stat => exact .inl (reportsOnly_answer _ u)
  | count | origin => exact .inl (reportsOnly_answer_drawn (pairOperand_state _ _ u))
  | put b ha =>
    refine .inr (.inl ⟨ha, b, rfl, ?_⟩)
    split <;> exact ⟨_, _, _, rfl⟩
  | perr ha hv => exact .inr (.inr (.inl ⟨ha, rfl, hv, _, _, _, rfl⟩))
  | getEmpty ha hd => exact .inr (.inr (.inr (.inl ⟨ha, rfl, hd, _, _, _, rfl⟩)))
  | get ha hd =>
    refine .inr (.inr (.inr (.inl ⟨ha, rfl, hd, ?_⟩)))
    rcases ringHead_state u with e | e <;> rw [e] <;> exact ⟨_, _, _, rfl⟩
  | query ha => exact .inr (.inr (.inr (.inr (.inl ⟨ha, rfl, _, _, _, rfl⟩))))
  | tile idx ha => exact .inr (.inr (.inr (.inr (.inr ⟨ha, idx, rfl, _, _, _, rfl⟩))))

/-! ### What the framer leaves unchanged -/

/-- What no framer step writes: the parameters, the ring buffer but for `rd`, the accepted request, the sink and the
result words; and of what it receives from, only the source that RX_PATH names. -/
structure FramerFrame (s t : State) : Prop where
  cfg : t.cfg = s.cfg
  rbMem : t.rbMem = s.rbMem
  wr : t.wr = s.wr
  lastOp : t.lastOp = s.lastOp
  idx : t.idx = s.idx
  txReady : t.txReady = s.txReady
  reslog : t.reslog = s.reslog
  ring : s.cfg.rxPath = .direct → t.rd = s.rd ∧ t.linkErr = s.linkErr
  rxq : s.cfg.rxPath = .viaRb → t.rxq = s.rxq

theorem FramerFrame.refl (s : State) : FramerFrame s s :=
  ⟨rfl, rfl, rfl, rfl, rfl, rfl, rfl, fun _ => ⟨rfl, rfl⟩, fun _ => rfl⟩

theorem FramerFrame.trans {s u t : State} (h : FramerFrame s u) (k : FramerFrame u t) : FramerFrame s t where
  cfg := k.cfg.trans h.cfg
  rbMem := k.rbMem.trans h.rbMem
  wr := k.wr.trans h.wr
  lastOp := k.lastOp.trans h.lastOp
  idx := k.idx.trans h.idx
  txReady := k.txReady.trans h.txReady
  reslog := k.reslog.trans h.reslog
  ring hd := by
    obtain ⟨h1, h2⟩ := h.ring hd
    obtain ⟨k1, k2⟩ := k.ring (by rw [h.cfg, hd])
    exact ⟨k1.trans h1, k2.trans h2⟩
  rxq hv := (k.rxq (by rw [h.cfg, hv])).trans (h.rxq hv)

/-- The registers that a request writes as it goes on are no part of the frame. -/
theorem framerFrame_request (s : State) (f : Fsm) (r : OpResult) (c : PartWord) (cv : Bool) (x y : Option Byte)
    (ov : Bool) (m : Memory) (tx : List Byte) (d : List BlockWrite) (n : Nat) :
    FramerFrame s { s with fsm := f, result := r, count := c, countValid := cv, ox := x, oy := y, originValid := ov,
                           tb := m, txlog := tx, displog := d, draws := n } :=
  ⟨rfl, rfl, rfl, rfl, rfl, rfl, rfl, fun _ => ⟨rfl, rfl⟩, fun _ => rfl⟩

theorem framerFrame_rxq {s : State} (h : s.cfg.rxPath = .direct) (q : List Token) :
    FramerFrame s { s with rxq := q } :=
  ⟨rfl, rfl, rfl, rfl, rfl, rfl, rfl, fun _ => ⟨rfl, rfl⟩, by simp [h]⟩

/-- A receive takes from the source that RX_PATH names (R142, R143). -/
theorem framerFrame_rxTake_byte {s t : State} {b : Byte} (h : rxTake s = .byte b t) : FramerFrame s t := by
  rcases rxTake_byte h with ⟨hd, q, -, rfl⟩ | ⟨hv, -, -, -, -, rfl⟩
  · exact framerFrame_rxq hd q
  · rcases ringHead_state s with e | e <;> rw [e] <;>
      exact ⟨rfl, rfl, rfl, rfl, rfl, rfl, rfl, by simp [hv], fun _ => rfl⟩

theorem framerFrame_rxTake_linkErr {s t : State} {k : Option LinkKind} (h : rxTake s = .linkErr k t) :
    FramerFrame s t := by
  rcases rxTake_linkErr h with ⟨hd, -, q, -, -, rfl⟩ | ⟨hv, -, -, rfl⟩
  · exact framerFrame_rxq hd q
  · exact ⟨rfl, rfl, rfl, rfl, rfl, rfl, rfl, by simp [hv], fun _ => rfl⟩

theorem RecvRow.framerFrame {t u : State} {b : Byte} (h : RecvRow t b u) : FramerFrame t u := by
  cases h <;> exact framerFrame_request t ..

theorem FramerNext.framerFrame {s t : State} (h : FramerNext s t) : FramerFrame s t := by
  cases h with
  | stay => exact .refl s
  | holdDrawn | rendered | finished => exact framerFrame_request s ..
  | sent u i b n hu => rcases hu with rfl | ⟨-, -, rfl⟩ <;> exact framerFrame_request _ ..
  | aborted k u hr hx => exact (framerFrame_rxTake_linkErr hx).trans (framerFrame_request u ..)
  | received b u t hr hx row => exact (framerFrame_rxTake_byte hx).trans row.framerFrame

/-! ### The access summary (R40) -/

/-- Settles O55. An operation word writes what `OpNext.writes` says, the framer all but `FramerFrame`; HOST and DISP
write one element each. -/
theorem accessSummary : Obligations.AccessSummary := by
  unfold Obligations.AccessSummary
  intro s t e h
  cases agentStep_next h with
  | reserved a w => simp [sameTile]
  | operation a w i t hd hop =>
    rcases hop.writes with ⟨_, _, _, rfl⟩ | ⟨rfl, b, rfl, _, _, _, rfl⟩ | ⟨rfl, rfl, hv, _, _, _, rfl⟩ |
      ⟨rfl, rfl, hp, _, _, _, rfl⟩ | ⟨rfl, rfl, _, _, _, rfl⟩ | ⟨rfl, idx, rfl, _, _, _, rfl⟩
    · simp [sameTile]
    · have hi : ∃ b, issues (.issue .prod w) .prod (.rbPut b) := ⟨b, w, rfl, hd⟩
      simp [sameTile, hi]
    · have hi : issues (.issue .prod w) .prod .rbPerr := ⟨w, rfl, hd⟩
      simp [sameTile, hi, show s.cfg.rxPath = .viaRb from hv]
    · have hi : issues (.issue .cons w) .cons .rbGet := ⟨w, rfl, hd⟩
      simp [sameTile, hi, show s.cfg.rxPath = .direct from hp]
    · have hi : issues (.issue .caller w) .caller .frQc := ⟨w, rfl, hd⟩
      simp [sameTile, hi, acceptQueryCount]
    · have hi : ∃ j, issues (.issue .caller w) .caller (.frTile j) := ⟨idx, w, rfl, hd⟩
      simp [sameTile, hi, acceptRequestTile]
  | framer t hf =>
    obtain ⟨hcfg, hmem, hwr, hlast, hidx, hready, hres, hring, hrxq⟩ := hf.framerFrame
    cases hp : s.cfg.rxPath with
    | direct => simp [hcfg, hmem, hwr, hlast, hidx, hready, hres, hring hp]
    | viaRb => simp [hcfg, hmem, hwr, hlast, hidx, hready, hres, hrxq hp]
  | sendDirect tok hd => simp [sameTile, hd]
  | sendViaRb tok | sink r | drop | answer ok => simp [sameTile]

end Sys2Proof.Machine
end

section
/-! PROOF. Where the model stops, refuses or holds (R10, R60, R245; log entries 3, 7, 11 and 14 to 16). -/

namespace Sys2Proof.Machine

/-! ### Stops (R60) -/

theorem slotExists_eq_false {c : Params} {cur : HWord} (h : c.mask < cur) : slotExists c cur = false := by
  simpa [slotExists] using h

theorem execRbPut_noSlot {s : State} (ha : s.issuer = .prod) (hw : s.cfg.mask < s.wr) (b : Byte) :
    execRbPut b s = .fault .noSlot := by
  rw [execRbPut, guardPort_owner (by simp [ownsPort, ha]), putByte, slotExists_eq_false hw]
  rfl

theorem execRbGet_noSlot {s : State} (ha : s.issuer = .cons) (hd : s.cfg.rxPath = .direct) (hne : s.rd ≠ s.wr)
    (hr : s.cfg.mask < s.rd) : execRbGet s = .fault .noSlot := by
  rw [execRbGet, guardPort_owner (by simp [ownsPort, ha, hd]), getByte, slotExists_eq_false hr]
  simp [isEmpty, hne]

theorem rxTake_noSlot {s : State} (hv : s.cfg.rxPath = .viaRb) (he : s.linkErr = false) (hne : s.rd ≠ s.wr)
    (hr : s.cfg.mask < s.rd) : rxTake s = .stop .noSlot := by
  simp [rxTake, hv, rxTakeViaRb, he, hne, slotExists_eq_false hr]

theorem receiveStep_stop {s : State} {f : Fault} (h : rxTake s = .stop f) : receiveStep s = .fault f := by
  simp [receiveStep, h]

theorem execPayloadPixel_noTileByte {s : State} {m j : Nat} (hf : s.fsm = .rtPay m j)
    (hp : s.cfg.payload ≤ m * s.cfg.chunk + j) (lo hi : Byte) : execPayloadPixel lo hi s = .fault .noTileByte := by
  simp [execPayloadPixel, hf, Nat.not_lt.2 hp]

/-! ### The free schedule and the refusals -/

/-- Where the agenda is empty, the free schedule's step comes next as if it had been given (R8, log entry 3). -/
theorem step_free {s : State} (h : s.agenda = []) :
    step s = step { s with agenda := [Config.agentStep s.turn], turn := s.turn + 1 } := by
  rw [step, step, nextAgentStep_free h, nextAgentStep_cons rfl, ← h]

theorem step_badConfig {s : State} (h : s.cfg.ok = false) : step s = .refused .badConfig := by
  simp [step, h]

theorem step_noSuchAgent {s : State} {w : OpWord} {rest : List AgentStep} (hok : s.cfg.ok = true)
    (hv : s.cfg.rxPath = .viaRb) (h : s.agenda = .issue .cons w :: rest) : step s = .refused .noSuchAgent := by
  simp [step, hok, nextAgentStep_cons h, agentStep, hv]

/-- Settles O14. The framer's stop goes through its receive, every other clause is one of the lemmas above. -/
theorem scheduleAndStops : Obligations.ScheduleAndStops := by
  unfold Obligations.ScheduleAndStops
  intro s
  refine ⟨step_free, step_badConfig, fun _ _ => step_noSuchAgent, execRbPut_noSlot, execRbGet_noSlot, ?_,
    fun _ _ => execPayloadPixel_noTileByte⟩
  intro hrec hv he hne hr
  rw [framerStep_receives hrec]
  exact receiveStep_stop (rxTake_noSlot hv he hne hr)

/-! ### Holds (R10, R141 to R143) -/

theorem execGetImageCount_notReady {s : State} (h : s.txReady = false) : execGetImageCount s = .next s := by
  unfold execGetImageCount
  split <;> simp [txSend_hold h]

theorem execGetImage_notReady {s : State} (h : s.txReady = false) (i : HWord) : execGetImage i s = .next s := by
  unfold execGetImage
  split <;> simp [txSend_hold h]

theorem execReady_notReady {s : State} (h : s.txReady = false) : execReady s = .next s := by
  unfold execReady
  split <;> simp [txSend_hold h]

theorem rxTake_hold_direct {s : State} (hd : s.cfg.rxPath = .direct) (hq : s.rxq = []) : rxTake s = .hold := by
  simp [rxTake, hd, rxTakeDirect, hq]

theorem rxTake_hold_viaRb {s : State} (hv : s.cfg.rxPath = .viaRb) (he : s.linkErr = false) (h : s.rd = s.wr) :
    rxTake s = .hold := by
  simp [rxTake, hv, rxTakeViaRb, he, h]

theorem framerStep_hold {s : State} (hr : s.fsm.receives = true) (h : rxTake s = .hold) : framerStep s = .next s := by
  simp [framerStep_receives hr, receiveStep, h]

/-! ### Wire patterns at which the framer does not stand (log entries 7 and 11) -/

theorem execGetImageCount_notStanding {s : State} (h : ∀ k, s.fsm ≠ .qcTx k) : execGetImageCount s = .next s := by
  unfold execGetImageCount
  split
  · exact absurd ‹_› (h 0)
  · exact absurd ‹_› (h 1)
  · rfl

theorem execGetImage_notStanding {s : State} (h : ∀ k, s.fsm ≠ .rtTx k) (i : HWord) : execGetImage i s = .next s := by
  unfold execGetImage
  split
  · exact absurd ‹_› (h 0)
  · exact absurd ‹_› (h 1)
  · exact absurd ‹_› (h 2)
  · exact absurd ‹_› (h 3)
  · rfl

theorem execReady_notStanding {s : State} (h : ∀ m, s.fsm ≠ .rtRdy m) : execReady s = .next s := by
  unfold execReady
  split
  · exact absurd ‹_› (h _)
  · rfl

theorem execCountResp_notStanding {s : State} (h : ∀ k, s.fsm ≠ .qcRx k) (r0 r1 : Byte) :
    execCountResp r0 r1 s = .next s := by
  unfold execCountResp
  split
  · exact absurd ‹_› (h 0)
  · exact absurd ‹_› (h 1)
  · rfl

theorem execTileHdr_notStanding {s : State} (h : ∀ k, s.fsm ≠ .rtHdr k) (x y : Byte) :
    execTileHdr x y s = .next s := by
  unfold execTileHdr
  split
  · exact absurd ‹_› (h 0)
  · exact absurd ‹_› (h 1)
  · rfl

theorem execPayloadPixel_notStanding {s : State} (h : ∀ m j, s.fsm ≠ .rtPay m j) (lo hi : Byte) :
    execPayloadPixel lo hi s = .next s := by
  unfold execPayloadPixel
  split
  · exact absurd ‹_› (h _ _)
  · rfl

/-- Settles O37. A send holds by `txSend_hold`, a receive where `rxTake` has nothing to take. -/
theorem holdsChangeNothing : Obligations.HoldsChangeNothing := by
  unfold Obligations.HoldsChangeNothing
  intro s
  refine ⟨?notReady, ?direct, ?viaRb, execGetImageCount_notStanding, execGetImage_notStanding, execReady_notStanding,
    execCountResp_notStanding, execTileHdr_notStanding, execPayloadPixel_notStanding⟩
  case notReady =>
    intro h
    exact ⟨execGetImageCount_notReady h, execGetImage_notReady h, execReady_notReady h⟩
  case direct =>
    intro hr hd hq
    exact framerStep_hold hr (rxTake_hold_direct hd hq)
  case viaRb =>
    intro hr hv he h
    exact framerStep_hold hr (rxTake_hold_viaRb hv he h)

end Sys2Proof.Machine
end

section
/-! PROOF. The invariant of the block is kept by every step (R22 to R25, R33 to R36, R62, R156, R216, R242): first what
each update of the state keeps, then the steps of the agents by cases on what they can do. -/

namespace Sys2Proof.Machine

/-! ### Updates that the invariant does not see, or sees in one place -/

/-- The invariant does not speak of the fault set, the sent bytes, the sink, the result words and the model's own
fields but `cfg`. -/
theorem Inv.keepsBookkeeping {s : State} (h : Inv s) (f : FaultSet) (tx : List Byte) (r : Bool) (p : List Response)
    (a : Agent) (g : List AgentStep) (n d : Nat) :
    Inv { s with faults := f, txlog := tx, txReady := r, reslog := p, issuer := a, agenda := g, turn := n, draws := d } :=
  { h with }

theorem Inv.keepsReports {s t : State} (h : Inv s) (hr : ReportsOnly s t) : Inv t := by
  obtain ⟨_, _, _, rfl⟩ := hr
  exact h.keepsBookkeeping ..

/-- A put stores at a slot that exists and moves `wr` to another (R22, R24). -/
theorem Inv.keepsRingStore {s : State} (h : Inv s) (b : Byte) : Inv (ringStore b s) :=
  { h with
    wrRange := advance_le s.cfg s.wr
    ringForm := ⟨Memory.write_wf _ _ _ h.ringForm.1,
      Memory.write_within _ _ ((le_mask_iff h.params _).1 h.wrRange) h.ringForm.2⟩ }

theorem Inv.keepsRingDrop {s : State} (h : Inv s) : Inv (ringDrop s) :=
  { h with rdRange := advance_le s.cfg s.rd }

theorem Inv.keepsLinkErr {s : State} (h : Inv s) (hv : s.cfg.rxPath = .viaRb) (e : Bool) :
    Inv { s with linkErr := e } :=
  { h with linkErrPath := by simp [hv] }

theorem Inv.keepsRxq {s : State} (h : Inv s) (hd : s.cfg.rxPath = .direct) (q : List Token) :
    Inv { s with rxq := q } :=
  { h with rxqPath := by simp [hd] }

/-! ### Received bytes -/

theorem Inv.keepsCountLo {s : State} (h : Inv s) (b : Byte) :
    Inv { s with count := { s.count with lo := some b } } :=
  { h with
    countReady := fun hv => by
      obtain ⟨hres, hop, -, hhi⟩ := h.countReady hv
      exact ⟨hres, hop, rfl, hhi⟩
    headWritten := ⟨fun _ => rfl, h.headWritten.2⟩ }

theorem Inv.keepsCountHi {s : State} (h : Inv s) (b : Byte) :
    Inv { s with count := { s.count with hi := some b } } :=
  { h with
    countReady := fun hv => by
      obtain ⟨hres, hop, hlo, -⟩ := h.countReady hv
      exact ⟨hres, hop, hlo, rfl⟩ }

theorem Inv.keepsOx {s : State} (h : Inv s) (b : Byte) : Inv { s with ox := some b } :=
  { h with
    originReady := fun hv => by
      obtain ⟨hres, hop, -, hy⟩ := h.originReady hv
      exact ⟨hres, hop, rfl, hy⟩
    headWritten := by
      obtain ⟨hcount, -, horigin⟩ := h.headWritten
      exact ⟨hcount, fun _ => rfl, fun hp => ⟨rfl, (horigin hp).2⟩⟩ }

theorem Inv.keepsOy {s : State} (h : Inv s) (b : Byte) : Inv { s with oy := some b } :=
  { h with
    originReady := fun hv => by
      obtain ⟨hres, hop, hx, -⟩ := h.originReady hv
      exact ⟨hres, hop, hx, rfl⟩
    headWritten := by
      obtain ⟨hcount, hfirst, horigin⟩ := h.headWritten
      exact ⟨hcount, hfirst, fun hp => ⟨(horigin hp).1, rfl⟩⟩ }

/-- A write takes no byte of the tile buffer away. -/
theorem tileWritten_write {s : State} {n : Nat} (h : tileWritten s n) (p : Nat) (b : Byte) :
    tileWritten { s with tb := s.tb.write p b } n := by
  intro q hq
  rw [Memory.read_write]
  split
  · rfl
  · exact h q hq

/-- A write at the first offset not reached yet reaches one more. -/
theorem tileWritten_write_succ {s : State} {n : Nat} (h : tileWritten s n) (b : Byte) :
    tileWritten { s with tb := s.tb.write n b } (n + 1) := by
  intro q hq
  rw [Memory.read_write]
  split
  · rfl
  · exact h q (by omega)

theorem Inv.keepsTileWrite {s : State} (h : Inv s) {p : Nat} (hp : p < s.cfg.payload) (b : Byte) :
    Inv { s with tb := s.tb.write p b } :=
  { h with
    tileForm := ⟨Memory.write_wf _ _ _ h.tileForm.1, Memory.write_within _ _ hp h.tileForm.2⟩
    payloadWritten := tileWritten_write h.payloadWritten p b
    tileReady := fun hv => tileWritten_write (h.tileReady hv) p b }

/-! ### Moves of the sequence state -/

/-- While a request is in flight and no set_block waits, the framer may go on to any position whose bytes are there. -/
theorem Inv.keepsMove {s : State} (h : Inv s) {f : Fsm} (hbusy : s.fsm ≠ .idle) (hwait : s.fsm ≠ .rtWait)
    (hf : f ≠ .rtWait) (hfits : f.fits s.cfg s.lastOp)
    (hhead : (f = .qcRx 1 → s.count.lo.isSome) ∧ (f = .rtHdr 1 → s.ox.isSome) ∧
      (f.pastHeader = true → s.ox.isSome ∧ s.oy.isSome))
    (hpay : tileWritten s (f.received s.cfg)) : Inv { s with fsm := f } :=
  { h with
    fsmFits := hfits
    busyClear := fun _ => h.busyClear hbusy
    indexLatched := fun _ => h.indexLatched hbusy
    headWritten := hhead
    payloadWritten := hpay
    answered := ⟨fun _ => h.answered.1 hwait, fun hw => absurd hw hf⟩ }

/-- A request that is accepted when IDLE starts with no result and nothing received, a RequestTile with its index
latched (R32, R152, R153, R156). -/
theorem Inv.keepsAccept {s : State} (h : Inv s) (hidle : s.fsm = .idle) {i : Option HWord} {op : LastOp} {f : Fsm}
    (hfits : f.fits s.cfg op) (hidx : op = .requestTile → i.isSome) (hf : f = .qcTx 0 ∨ f = .rtTx 0) :
    Inv { s with idx := i, result := .none, lastOp := op, countValid := false, originValid := false, fsm := f } := by
  rcases hf with rfl | rfl <;> exact
    { h with
      fsmFits := hfits
      busyClear := fun _ => ⟨rfl, rfl, rfl⟩
      countReady := nofun
      originReady := nofun
      resultRecorded := ⟨nofun, nofun, nofun⟩
      indexLatched := fun _ => hidx
      headWritten := ⟨nofun, nofun, nofun⟩
      payloadWritten := nofun
      tileReady := nofun
      answered := ⟨fun _ => h.answered.1 (by simp [hidle]), nofun⟩ }

/-- The data that a request has stored when it finishes with OK, or as a RequestTile with a display error (R34, R35,
R150). -/
def dataArrived (s : State) : LastOp → Prop
  | .queryCount => s.count.lo.isSome ∧ s.count.hi.isSome
  | .requestTile => s.ox.isSome ∧ s.oy.isSome ∧ tileWritten s s.cfg.payload

/-- A request in flight may finish when no set_block waits, with OK or a display error when its data has arrived
(R150, R242). -/
theorem Inv.keepsFinish {s : State} (h : Inv s) {r : OpResult} (hbusy : s.fsm ≠ .idle)
    (hset : ∀ b ∈ s.displog, b.answer ≠ .pending) (hok : r = .ok → dataArrived s s.lastOp)
    (herr : r = .displayWriteError → s.lastOp = .requestTile ∧ dataArrived s .requestTile) : Inv (finish r s) := by
  obtain ⟨-, hcv, hov⟩ := h.busyClear hbusy
  have horigin : (finish r s).originValid = true →
      s.lastOp = .requestTile ∧ (r = .ok ∨ r = .displayWriteError) ∧ dataArrived s .requestTile := by
    intro hv
    obtain ⟨hop, hr⟩ : s.lastOp = .requestTile ∧ (r = .ok ∨ r = .displayWriteError) := by simpa [hov] using hv
    refine ⟨hop, hr, ?_⟩
    rcases hr with e | e
    · exact hop ▸ hok e
    · exact (herr e).2
  exact
    { h with
      fsmFits := trivial
      busyClear := fun hne => absurd rfl hne
      countReady := fun hv => by
        obtain ⟨hop, hr⟩ : s.lastOp = .queryCount ∧ r = .ok := by simpa [hcv] using hv
        have hdata := hok hr
        rw [hop] at hdata
        exact ⟨hr, hop, hdata⟩
      originReady := fun hv => by
        obtain ⟨hop, hr, hx, hy, -⟩ := horigin hv
        exact ⟨hr, hop, hx, hy⟩
      resultRecorded := by
        refine ⟨?_, ?_, ?_⟩
        · rintro (rfl : r = .ok) (hop : s.lastOp = .queryCount)
          simp [hop]
        · rintro (rfl : r = .ok) (hop : s.lastOp = .requestTile)
          simp [hop]
        · rintro (rfl : r = .displayWriteError)
          simp [(herr rfl).1]
      indexLatched := fun hne => absurd rfl hne
      headWritten := ⟨nofun, nofun, nofun⟩
      payloadWritten := nofun
      tileReady := fun hv => by
        obtain ⟨-, -, -, -, htile⟩ := horigin hv
        exact htile
      answered := ⟨fun _ => hset, nofun⟩ }

/-- After a request that was aborted no register is valid, so its data may be marked `unwritten` (R151). -/
theorem Inv.keepsDiscard {s : State} (h : Inv s) (hidle : s.fsm = .idle) (hcv : s.countValid = false)
    (hov : s.originValid = false) : Inv (discard s) :=
  { h with
    tileForm := by
      rw [discard_tb, discard_cfg]
      split
      · exact ⟨rfl, rfl⟩
      · exact h.tileForm
    countReady := by simp [hcv]
    originReady := by simp [hov]
    headWritten := by simp [hidle, Fsm.pastHeader]
    payloadWritten := by simp [hidle, Fsm.received, tileWritten]
    tileReady := by simp [hov] }

theorem finish_discard (r : OpResult) (s : State) : finish r (discard s) = discard (finish r s) := rfl

theorem Inv.keepsAbort {s : State} (h : Inv s) (hrec : s.fsm.receives = true) : Inv (abort s) := by
  have hbusy : s.fsm ≠ .idle := fun e => by simp [e, Fsm.receives] at hrec
  have hwait : s.fsm ≠ .rtWait := fun e => by simp [e, Fsm.receives] at hrec
  obtain ⟨-, hcv, hov⟩ := h.busyClear hbusy
  rw [abort, finish_discard]
  refine (h.keepsFinish hbusy (h.answered.1 hwait) (r := .transferAborted) nofun nofun).keepsDiscard rfl ?_ ?_
  · simp [hcv]
  · simp [hov]

/-! ### The display log -/

/-- The render step leaves one call unanswered, the last, and goes to RT_WAIT (R216). -/
theorem Inv.keepsRender {s : State} (h : Inv s) (hf : s.fsm = .rtDisp) : Inv (renderStep s) := by
  have hbusy : s.fsm ≠ .idle := by simp [hf]
  have hfits := h.fsmFits
  obtain ⟨-, -, horigin⟩ := h.headWritten
  have hpay := h.payloadWritten
  have hset := h.answered.1
  simp only [hf] at hfits horigin hpay hset
  exact
    { h with
      fsmFits := hfits
      busyClear := fun _ => h.busyClear hbusy
      indexLatched := fun _ => h.indexLatched hbusy
      headWritten := ⟨nofun, nofun, horigin⟩
      payloadWritten := hpay
      answered := ⟨fun hne => absurd rfl hne, fun _ => by simpa using hset⟩ }

/-- An answer settles the last call and leaves the others. -/
theorem settleLast_settled {a : Answer} (ha : a ≠ .pending) {l : List BlockWrite}
    (h : ∀ b ∈ l.dropLast, b.answer ≠ .pending) : ∀ b ∈ settleLast a l, b.answer ≠ .pending := by
  rcases List.eq_nil_or_concat l with rfl | ⟨l, c, rfl⟩
  · simp
  · rw [List.concat_eq_append, List.dropLast_concat] at h
    rw [List.concat_eq_append, settleLast_append]
    intro b hb
    rcases List.mem_append.1 hb with hb | hb
    · exact h b hb
    · rw [List.mem_singleton.1 hb]
      split
      · exact ha
      · assumption

theorem Inv.keepsDisplayAnswer {s : State} (h : Inv s) (ok : Bool) : Inv (displayAnswer ok s) := by
  have hset : ∀ b ∈ (displayAnswer ok s).displog, b.answer ≠ .pending := by
    refine settleLast_settled (by cases ok <;> decide) fun b hb => ?_
    by_cases hw : s.fsm = .rtWait
    · exact (h.answered.2 hw).2 b hb
    · exact h.answered.1 hw b (List.mem_of_mem_dropLast hb)
  have hne : s.fsm = .rtWait → (displayAnswer ok s).displog ≠ [] := fun hw => by
    rw [← List.length_pos_iff, displayAnswer_displog, settleLast_length, List.length_pos_iff]
    exact (h.answered.2 hw).1
  exact { h with
    answered := ⟨fun _ => hset, fun hw => ⟨hne hw, fun b hb => hset b (List.mem_of_mem_dropLast hb)⟩⟩ }

/-! ### The payload's positions -/

theorem nchunk_mul_chunk {c : Params} (h : c.ok = true) : c.nchunk * c.chunk = c.payload := by
  obtain ⟨-, -, -, -, -, -, -, -, hdvd⟩ := params_bounds h
  exact Nat.div_mul_cancel (Nat.dvd_of_mod_eq_zero hdvd)

theorem chunk_pos {c : Params} (h : c.ok = true) : 0 < c.chunk := by
  obtain ⟨-, -, -, -, -, -, hchunk, -, -⟩ := params_bounds h
  exact hchunk

theorem nchunk_pos {c : Params} (h : c.ok = true) : 0 < c.nchunk := by
  obtain ⟨-, -, -, -, -, -, -, hle, -⟩ := params_bounds h
  exact Nat.div_pos hle (chunk_pos h)

/-- The chunks fill TB one after the other (R149). -/
theorem payload_offset_lt {c : Params} (h : c.ok = true) {m j : Nat} (hm : m < c.nchunk) (hj : j < c.chunk) :
    m * c.chunk + j < c.payload :=
  calc m * c.chunk + j < (m + 1) * c.chunk := by rw [Nat.add_one_mul]; omega
    _ ≤ c.nchunk * c.chunk := Nat.mul_le_mul_right _ hm
    _ = c.payload := nchunk_mul_chunk h

/-- After a payload byte one more has been received, and the request goes on past its header (R155). -/
theorem afterPayload_spec {c : Params} (h : c.ok = true) {m j : Nat} (hm : m < c.nchunk) (hj : j < c.chunk) :
    (afterPayload c m j).received c = m * c.chunk + j + 1 ∧ (afterPayload c m j).fits c .requestTile ∧
      (afterPayload c m j).pastHeader = true ∧ afterPayload c m j ≠ .rtWait := by
  unfold afterPayload
  split
  · exact ⟨rfl, ⟨rfl, hm, ‹_›⟩, rfl, nofun⟩
  have hlast : j + 1 = c.chunk := by omega
  have hsucc : (m + 1) * c.chunk = m * c.chunk + j + 1 := by rw [Nat.add_one_mul, Nat.add_assoc, hlast]
  split
  · exact ⟨hsucc, ⟨rfl, ‹_›⟩, rfl, nofun⟩
  · have hend : m + 1 = c.nchunk := by omega
    exact ⟨by rw [← hsucc, hend]; exact (nchunk_mul_chunk h).symm, rfl, rfl, nofun⟩

/-! ### The framer's steps -/

theorem Inv.keepsSent {s : State} (h : Inv s) {i : HWord} {b : Byte} {f : Fsm} (row : SendRow i s.fsm b f) :
    Inv { s with fsm := f } := by
  have hfits := h.fsmFits
  obtain ⟨-, -, horigin⟩ := h.headWritten
  have hpay := h.payloadWritten
  generalize hs : s.fsm = f₀ at row hfits horigin hpay
  cases row with
  | rdy m =>
    obtain ⟨hop, hm⟩ := hfits
    exact h.keepsMove (by simp [hs]) (by simp [hs]) nofun ⟨hop, hm, chunk_pos h.params⟩ ⟨nofun, nofun, horigin⟩ hpay
  | _ => exact h.keepsMove (by simp [hs]) (by simp [hs]) nofun hfits ⟨nofun, nofun, nofun⟩ nofun

theorem RecvRow.keepsInv {t u : State} {b : Byte} (row : RecvRow t b u) (h : Inv t) : Inv u := by
  have hfits := h.fsmFits
  obtain ⟨hlo, hx, horigin⟩ := h.headWritten
  cases row with
  | qc0 hf =>
    rw [hf] at hfits
    exact (h.keepsCountLo b).keepsMove (by simp [hf]) (by simp [hf]) nofun hfits ⟨fun _ => rfl, nofun, nofun⟩ nofun
  | qc1 hf =>
    rw [hf] at hfits
    refine (h.keepsCountHi b).keepsFinish (by simp [hf]) (h.answered.1 (by simp [hf])) (fun _ => ?_) nofun
    rw [show t.lastOp = .queryCount from hfits]
    exact ⟨hlo hf, rfl⟩
  | hdr0 hf =>
    rw [hf] at hfits
    exact (h.keepsOx b).keepsMove (by simp [hf]) (by simp [hf]) nofun hfits ⟨nofun, fun _ => rfl, nofun⟩ nofun
  | hdr1 hf =>
    rw [hf] at hfits
    exact (h.keepsOy b).keepsMove (by simp [hf]) (by simp [hf]) nofun ⟨hfits, nchunk_pos h.params⟩
      ⟨nofun, nofun, fun _ => ⟨hx hf, rfl⟩⟩ (by simp [Fsm.received, tileWritten])
  | pay m j hf hp =>
    have hpay := h.payloadWritten
    rw [hf] at hfits hpay
    obtain ⟨hop, hm, hj⟩ := hfits
    obtain ⟨hrec, hfits, hpast, hne⟩ := afterPayload_spec h.params hm hj
    refine (h.keepsTileWrite hp b).keepsMove (by simp [hf]) (by simp [hf]) hne (hop ▸ hfits) ⟨?_, ?_, ?_⟩ ?_
    · intro e
      simp [e, Fsm.pastHeader] at hpast
    · intro e
      simp [e, Fsm.pastHeader] at hpast
    · exact fun _ => horigin (by rw [hf]; rfl)
    · rw [hrec]
      exact tileWritten_write_succ hpay b

theorem Inv.keepsTakenByte {s t : State} {b : Byte} (h : Inv s) (hx : rxTake s = .byte b t) : Inv t := by
  rcases rxTake_byte hx with ⟨hd, q, -, rfl⟩ | ⟨-, -, -, -, -, rfl⟩
  · exact h.keepsRxq hd q
  · rcases ringHead_state s with e | e <;> rw [e]
    · exact h.keepsRingDrop
    · exact Inv.keepsRingDrop (h.keepsBookkeeping ..)

/-- Taking a link error leaves the framer where it received it. -/
theorem Inv.keepsTakenLinkErr {s t : State} {k : Option LinkKind} (h : Inv s) (hx : rxTake s = .linkErr k t) :
    Inv t ∧ t.fsm = s.fsm := by
  rcases rxTake_linkErr hx with ⟨hd, -, q, -, -, rfl⟩ | ⟨hv, -, -, rfl⟩
  · exact ⟨h.keepsRxq hd q, rfl⟩
  · exact ⟨h.keepsLinkErr hv false, rfl⟩

/-- The answer to the last call ends the request: no other call waits, and the whole tile has arrived (R216, R220). -/
theorem Inv.keepsAnswered {s : State} (h : Inv s) {r : OpResult} {l : List BlockWrite} {c : BlockWrite}
    (hf : s.fsm = .rtWait) (hl : s.displog = l ++ [c])
    (hc : c.answer = .ok ∧ r = .ok ∨ c.answer = .err ∧ r = .displayWriteError) : Inv (finish r s) := by
  have hfits := h.fsmFits
  have hpay := h.payloadWritten
  obtain ⟨-, -, horigin⟩ := h.headWritten
  obtain ⟨hx, hy⟩ := horigin (by rw [hf]; rfl)
  obtain ⟨-, hset⟩ := h.answered.2 hf
  rw [hf] at hfits hpay
  have hop : s.lastOp = .requestTile := hfits
  have hdata : dataArrived s .requestTile := ⟨hx, hy, hpay⟩
  rw [hl, List.dropLast_concat] at hset
  refine h.keepsFinish (by simp [hf]) ?_ (fun _ => hop ▸ hdata) (fun _ => ⟨hop, hdata⟩)
  intro b hb
  rw [hl] at hb
  rcases List.mem_append.1 hb with hb | hb
  · exact hset b hb
  · rw [List.mem_singleton.1 hb]
    rcases hc with ⟨e, -⟩ | ⟨e, -⟩ <;> simp [e]

theorem FramerNext.keepsInv {s t : State} (hn : FramerNext s t) (h : Inv s) : Inv t := by
  cases hn with
  | stay => exact h
  | holdDrawn => exact h.keepsBookkeeping ..
  | sent u i b n hu _ _ row =>
    rcases hu with rfl | ⟨-, -, rfl⟩ <;> exact (h.keepsSent row).keepsBookkeeping ..
  | aborted k u hrec hx =>
    obtain ⟨hu, hf⟩ := h.keepsTakenLinkErr hx
    exact hu.keepsAbort (hf ▸ hrec)
  | received b u t _ hx row => exact row.keepsInv (h.keepsTakenByte hx)
  | rendered hf => exact h.keepsRender hf
  | finished r l c hf hl hc => exact h.keepsAnswered hf hl hc

/-! ### The other agents' steps -/

theorem OpNext.keepsInv {u t : State} {i : Instr} (hn : OpNext u i t) (h : Inv u) : Inv t := by
  cases hn with
  | port | perrDirect | queryBusy | tileBusy | countUndef | originUndef | status | stat =>
    exact h.keepsBookkeeping ..
  | count | origin => exact h.keepsReports (reportsOnly_answer_drawn (pairOperand_state _ _ u))
  | put b => split <;> exact (h.keepsRingStore b).keepsBookkeeping ..
  | perr _ hv => exact (h.keepsLinkErr hv true).keepsBookkeeping ..
  | getEmpty => exact h.keepsRingDrop.keepsBookkeeping ..
  | get => rcases ringHead_state u with e | e <;> rw [e] <;> exact h.keepsRingDrop.keepsBookkeeping ..
  | query _ hidle =>
    exact (h.keepsAccept hidle (op := .queryCount) (f := .qcTx 0) rfl nofun (.inl rfl)).keepsBookkeeping ..
  | tile idx _ hidle =>
    exact (h.keepsAccept hidle (op := .requestTile) (f := .rtTx 0) rfl (fun _ => rfl) (.inr rfl)).keepsBookkeeping ..

theorem AgentNext.keepsInv {s t : State} {e : AgentStep} (hn : AgentNext s e t) (h : Inv s) : Inv t := by
  cases hn with
  | reserved | sink => exact h.keepsBookkeeping ..
  | operation a w i t _ hop => exact hop.keepsInv (h.keepsBookkeeping ..)
  | framer t hf => exact hf.keepsInv h
  | sendDirect tok hd => exact h.keepsRxq hd _
  | sendViaRb | drop => exact h
  | answer ok => exact h.keepsDisplayAnswer ok

theorem Inv.keepsSchedule {s : State} (h : Inv s) : Inv (nextAgentStep s).2 := by
  unfold nextAgentStep
  split <;> exact h.keepsBookkeeping ..

/-- Settles O50, by cases on what the scheduled agent's step can do. -/
theorem stepKeepsInvariant : Obligations.StepKeepsInvariant := by
  unfold Obligations.StepKeepsInvariant
  intro s t h hs
  exact (agentStep_next (step_next hs).2).keepsInv h.keepsSchedule

end Sys2Proof.Machine
end

section
/-! PROOF. The derived values of the ring buffer as numbers, and their laws (R26, R27, R110). -/

namespace Sys2Proof.Machine

/-- The count of R26 is the number of buffered bytes (R28). -/
theorem length_buffered (s : State) : (buffered s).length = (ringCount s).toNat := by
  simp [buffered]

theorem ringCount_toNat {s : State} (h : s.cfg.ok = true) (hr : s.rd ≤ s.cfg.mask) (hw : s.wr ≤ s.cfg.mask) :
    (ringCount s).toNat = (s.wr.toNat + s.cfg.depth - s.rd.toNat) % s.cfg.depth :=
  sub_and_mask h s.wr s.rd hw hr

theorem ringCount_le (s : State) : ringCount s ≤ s.cfg.mask := and_mask_le s.cfg _

theorem mask_toNat_of_ok {c : Params} (h : c.ok = true) : c.mask.toNat = c.depth - 1 := by
  obtain ⟨-, hlog, -⟩ := params_bounds h
  exact mask_toNat c hlog

theorem ringCount_toNat_le {s : State} (h : s.cfg.ok = true) : (ringCount s).toNat ≤ s.cfg.depth - 1 := by
  rw [← mask_toNat_of_ok h]
  exact BitVec.le_def.1 (ringCount_le s)

/-- The free slots are N − 1 less the count; no cursor need be in range (R26, D5). -/
theorem slots_toNat {s : State} (h : s.cfg.ok = true) :
    (slots s).toNat = s.cfg.depth - 1 - (ringCount s).toNat := by
  rw [← mask_toNat_of_ok h]
  exact BitVec.toNat_sub_of_le (ringCount_le s)

theorem isEmpty_eq_not_hasData (s : State) : isEmpty s = !hasData s := by
  simp [isEmpty, hasData]

theorem isEmpty_iff_toNat (s : State) : isEmpty s = true ↔ s.rd.toNat = s.wr.toNat := by
  rw [isEmpty, decide_eq_true_iff, BitVec.toNat_inj]

/-- EMPTY is a count of 0 (R27). -/
theorem isEmpty_iff_ringCount {s : State} (h : s.cfg.ok = true) (hr : s.rd ≤ s.cfg.mask) (hw : s.wr ≤ s.cfg.mask) :
    isEmpty s = true ↔ (ringCount s).toNat = 0 := by
  rw [isEmpty_iff_toNat, ringCount_eq h hr hw]
  rw [le_mask_iff h] at hr hw
  unfold cursorGap
  split <;> omega

/-- FULL is a count of N − 1 (R27, R110). -/
theorem isFull_iff_ringCount {s : State} (h : s.cfg.ok = true) (hr : s.rd ≤ s.cfg.mask) (hw : s.wr ≤ s.cfg.mask) :
    isFull s = true ↔ (ringCount s).toNat = s.cfg.depth - 1 := by
  rw [isFull_iff h, ringCount_eq h hr hw]
  rw [le_mask_iff h] at hr hw
  rw [mod_by_cases (by omega)]
  unfold cursorGap
  split <;> split <;> omega

/-- Settles O15: each law is one about the count, which is at most N − 1. -/
theorem ringStatusLaws : Obligations.RingStatusLaws := by
  unfold Obligations.RingStatusLaws
  intro s h hr hw
  have hle := ringCount_toNat_le h
  have hdepth := (depth_bounds h).1
  rw [length_buffered, slots_toNat h, isEmpty_iff_ringCount h hr hw, isFull_iff_ringCount h hr hw]
  refine ⟨ringCount_toNat h hr hw, hle, rfl, isEmpty_eq_not_hasData s, Iff.rfl, ?_, Iff.rfl, ?_, ?_⟩ <;> omega

end Sys2Proof.Machine
end

section
/-! PROOF. The reset state of every block (R41, R270, R287, R288), the steps of HOST and DISP (R257), and the status
word (R37). -/

namespace Sys2Proof.Machine

/-! ### The status word -/

/-- The fields of STAT at their places, bits 15:6 zero (R37). -/
theorem statWord_toNat (s : State) :
    (statWord s).toNat = (busy s).toNat + 2 * s.result.code.toNat + 8 * s.lastOp.bit.toNat + 16 * s.countValid.toNat +
      32 * s.originValid.toNat := by
  unfold statWord
  generalize s.originValid = ov, s.countValid = cv, s.lastOp.bit = op, s.result.code = r, busy s = b
  revert ov cv op r b
  decide

/-! ### Reset -/

theorem ringCount_resetFor (c : Params) : ringCount (State.resetFor c) = 0#16 := by
  simp [ringCount, State.resetFor]

theorem buffered_resetFor (c : Params) : buffered (State.resetFor c) = [] := by
  rw [← List.length_eq_zero_iff, length_buffered, ringCount_resetFor]
  rfl

theorem isFull_resetFor {c : Params} (h : c.ok = true) : isFull (State.resetFor c) = false := by
  rw [Bool.eq_false_iff, ne_eq, isFull_iff (s := State.resetFor c) h]
  have hdepth := (depth_bounds h).1
  have hone : (0 + 1) % c.depth = 1 := Nat.mod_eq_of_lt hdepth
  exact fun e : 0 = (0 + 1) % c.depth => absurd (e.trans hone) (by decide)

theorem slots_resetFor {c : Params} (h : c.ok = true) : (slots (State.resetFor c)).toNat = c.depth - 1 := by
  rw [slots_toNat (s := State.resetFor c) h, ringCount_resetFor]
  rfl

theorem statWord_resetFor (c : Params) : statWord (State.resetFor c) = 0 :=
  BitVec.eq_of_toNat_eq (statWord_toNat _)

/-- Settles O7. The state's elements have their values by definition; FULL and SLOTS depend on N. -/
theorem resetState : Obligations.ResetState := by
  unfold Obligations.ResetState
  refine ⟨rfl, by decide, fun c h => ?_⟩
  refine ⟨rfl, fun _ => rfl, rfl, rfl, rfl, rfl, rfl, rfl, rfl, rfl, rfl, rfl, rfl, rfl, rfl, fun _ => rfl, ?faults,
    rfl, rfl, rfl, rfl, rfl, rfl, isFull_resetFor h, slots_resetFor h, statWord_resetFor c⟩
  case faults =>
    intro f
    cases f <;> rfl

/-- At IDLE, with nothing valid, no storage written and nothing displayed, each clause is empty or a matter of form. -/
theorem inv_resetFor {c : Params} (h : c.ok = true) : Inv (State.resetFor c) where
  params := h
  rdRange := BitVec.le_def.2 (Nat.zero_le _)
  wrRange := BitVec.le_def.2 (Nat.zero_le _)
  ringForm := ⟨rfl, rfl⟩
  tileForm := ⟨rfl, rfl⟩
  linkErrPath _ := rfl
  rxqPath _ := rfl
  fsmFits := trivial
  busyClear hne := absurd rfl hne
  countReady := nofun
  originReady := nofun
  resultRecorded := ⟨nofun, nofun, nofun⟩
  indexLatched hne := absurd rfl hne
  headWritten := ⟨nofun, nofun, nofun⟩
  payloadWritten := nofun
  tileReady := nofun
  answered := ⟨fun _ => nofun, nofun⟩

theorem txTrace_resetFor (c : Params) : TxTrace (State.resetFor c) := ⟨[], nofun, rfl⟩

theorem ringWritten_resetFor (c : Params) : RingWritten (State.resetFor c) := by
  intro _ _
  simp [buffered_resetFor]

theorem launchOk_resetFor (c : Params) : launchOk (State.resetFor c) .idle := by
  refine ⟨rfl, BitVec.le_def.2 (Nat.zero_le _), BitVec.le_def.2 (Nat.zero_le _), rfl, ?_⟩
  simp [buffered_resetFor]

theorem goodRun_resetFor (c : Params) : goodRun (State.resetFor c) := ⟨⟨rfl, nofun, nofun⟩, rfl⟩

/-- Settles O8, by one lemma for each predicate. -/
theorem resetMeetsInvariants : Obligations.ResetMeetsInvariants := by
  unfold Obligations.ResetMeetsInvariants
  intro c h
  exact ⟨inv_resetFor h, txTrace_resetFor c, ringWritten_resetFor c, launchOk_resetFor c, goodRun_resetFor c⟩

/-! ### HOST and DISP -/

/-- A step takes the first agent step that was given. -/
theorem step_agenda {s : State} {e : AgentStep} {rest : List AgentStep} (h : s.cfg.ok = true)
    (ha : s.agenda = e :: rest) : step s = agentStep e { s with agenda := rest } := by
  rw [step, if_pos h, nextAgentStep_cons ha]

theorem agentStep_hostSend_direct {s : State} {tok : Token} (h : s.cfg.rxPath = .direct) :
    agentStep (.hostSend tok) s = .next { s with rxq := s.rxq ++ [tok] } := by
  simp [agentStep, hostSend, h]

theorem agentStep_hostSend_viaRb {s : State} {tok : Token} (h : s.cfg.rxPath = .viaRb) :
    agentStep (.hostSend tok) s = .next s := by
  simp [agentStep, hostSend, h]

theorem agentStep_dispAnswer_empty {s : State} {ok : Bool} (h : s.displog = []) :
    agentStep (.dispAnswer ok) s = .next s := by
  rw [agentStep, displayAnswer, h, settleLast_nil, ← h]

theorem agentStep_dispAnswer_settled {s : State} {ok : Bool} {l : List BlockWrite} {b : BlockWrite}
    (h : s.displog = l ++ [b]) (hb : b.answer ≠ .pending) : agentStep (.dispAnswer ok) s = .next s := by
  rw [agentStep, displayAnswer, h, settleLast_append, if_neg hb, ← h]

theorem agentStep_dispAnswer_pending {s : State} {ok : Bool} {l : List BlockWrite} {b : BlockWrite}
    (h : s.displog = l ++ [b]) (hb : b.answer = .pending) :
    agentStep (.dispAnswer ok) s =
      .next { s with displog := l ++ [{ b with answer := if ok then .ok else .err }] } := by
  rw [agentStep, displayAnswer, h, settleLast_append, if_pos hb]

/-- Settles O13: `step` takes the given agent step, and the lemmas above say what that step does. -/
theorem stepsOfHostAndDisplay : Obligations.StepsOfHostAndDisplay := by
  unfold Obligations.StepsOfHostAndDisplay
  intro s rest tok r ok h
  refine ⟨?direct, ?viaRb, step_agenda h, step_agenda h, ?disp⟩
  case direct => exact fun ha hd => (step_agenda h ha).trans (agentStep_hostSend_direct hd)
  case viaRb => exact fun ha hv => (step_agenda h ha).trans (agentStep_hostSend_viaRb hv)
  case disp =>
    intro ha
    exact ⟨fun hd => (step_agenda h ha).trans (agentStep_dispAnswer_empty hd),
      fun l b hd hb => (step_agenda h ha).trans (agentStep_dispAnswer_settled hd hb),
      fun l b hd hb => (step_agenda h ha).trans (agentStep_dispAnswer_pending hd hb)⟩

/-! ### FR.STAT -/

theorem execFrStat_caller {s : State} (ha : s.issuer = .caller) : execFrStat s = .next (answer (statWord s) s) := by
  rw [execFrStat, guardPort_owner (by simp [ownsPort, ha])]

/-- Settles O31: the word is `statWord`, whose fields have the codes of R29 to R31. -/
theorem statReads : Obligations.StatReads := by
  unfold Obligations.StatReads
  intro s ha
  refine ⟨statWord s, ?_, ?_⟩
  · rw [exec, execFrStat_caller ha, answer, ha]
  · have hbusy : (busy s).toNat = if s.fsm = .idle then 0 else 1 := by
      unfold busy
      split <;> simp [*]
    rw [statWord_toNat, hbusy]
    congr 1
    · congr 1
      · congr 1
        · cases s.result <;> rfl
        · cases s.lastOp <;> rfl
      · cases s.countValid <;> rfl
    · cases s.originValid <;> rfl

end Sys2Proof.Machine
end

section
/-! PROOF. What runs when an agent issues an operation word (R67, R81), and that a check of FULL or HAS_DATA stays true
until the checking agent's own act (R73, R114): what a step does to the two cursors, and from that to the count. -/

namespace Sys2Proof.Machine

/-! ### Issued words -/

/-- The agents that exist issue words; CONS does only when DIRECT (R8, R245). -/
theorem agentStep_issue {a : Agent} {s : State} (h : a = .cons → s.cfg.rxPath = .direct) (w : OpWord) :
    agentStep (.issue a w) s = issueWord a w s := by
  have hex : ¬(a = .cons ∧ s.cfg.rxPath = .viaRb) := fun ⟨ha, hv⟩ => by simp [h ha] at hv
  rw [agentStep, if_neg hex]

theorem issueWord_decoded {w : OpWord} {i : Instr} (h : decodeWord w = .ok i) (a : Agent) (s : State) :
    issueWord a w s = exec i { s with issuer := a } := by
  rw [issueWord, h]

/-- Settles O9: the given step is taken, its agent exists, and its word decodes to `i`. -/
theorem stepRunsIssuedOperation : Obligations.StepRunsIssuedOperation := by
  unfold Obligations.StepRunsIssuedOperation
  intro s a w rest i hok hagenda hex hdec
  calc step s
    _ = agentStep (.issue a w) { s with agenda := rest } := step_agenda hok hagenda
    _ = issueWord a w { s with agenda := rest } :=
      agentStep_issue (s := { s with agenda := rest }) hex w
    _ = exec i { s with agenda := rest, issuer := a } := issueWord_decoded hdec a _

/-! ### What a step does to the cursors -/

/-- `t` has the block's parameters and both cursors of `s`. -/
def SameCursors (s t : State) : Prop := t.cfg = s.cfg ∧ t.rd = s.rd ∧ t.wr = s.wr

theorem SameCursors.trans {s u t : State} (h : SameCursors s u) (k : SameCursors u t) : SameCursors s t := by
  obtain ⟨hcfg, hrd, hwr⟩ := h
  obtain ⟨kcfg, krd, kwr⟩ := k
  exact ⟨kcfg.trans hcfg, krd.trans hrd, kwr.trans hwr⟩

theorem SameCursors.ringCount_eq {s t : State} (h : SameCursors s t) : ringCount t = ringCount s := by
  obtain ⟨hcfg, hrd, hwr⟩ := h
  rw [ringCount, ringCount, hcfg, hrd, hwr]

theorem ReportsOnly.sameCursors {s t : State} (h : ReportsOnly s t) : SameCursors s t := by
  obtain ⟨_, _, _, rfl⟩ := h
  exact ⟨rfl, rfl, rfl⟩

theorem RecvRow.sameCursors {s t : State} {b : Byte} (h : RecvRow s b t) : SameCursors s t := by
  cases h <;> exact ⟨rfl, rfl, rfl⟩

/-- Of the operations, RB.PUT by PROD alone moves `wr`, and RB.GET by CONS alone moves `rd`. -/
theorem OpNext.cursors {u t : State} {i : Instr} (h : OpNext u i t) :
    SameCursors u t ∨ (u.issuer = .prod ∧ ∃ b, i = .rbPut b ∧ SameCursors (ringStore b u) t) ∨
      (u.issuer = .cons ∧ i = .rbGet ∧ SameCursors (ringDrop u) t) := by
  rcases h.writes with hr | ⟨ha, b, hi, hr⟩ | ⟨-, -, -, hr⟩ | ⟨ha, hi, -, hr⟩ | ⟨-, -, hr⟩ | ⟨-, _, -, hr⟩
  · exact .inl hr.sameCursors
  · exact .inr (.inl ⟨ha, b, hi, hr.sameCursors⟩)
  · exact .inl hr.sameCursors
  · exact .inr (.inr ⟨ha, hi, hr.sameCursors⟩)
  · exact .inl hr.sameCursors
  · exact .inl hr.sameCursors

/-- The framer moves `rd` alone, and only to take a byte that is buffered when VIA_RB (R143). -/
theorem FramerNext.cursors {s t : State} (h : FramerNext s t) :
    SameCursors s t ∨ (s.cfg.rxPath = .viaRb ∧ isEmpty s = false ∧ SameCursors (ringDrop s) t) := by
  cases h with
  | stay | holdDrawn | rendered | finished => exact .inl ⟨rfl, rfl, rfl⟩
  | sent u i b n hu => rcases hu with rfl | ⟨-, -, rfl⟩ <;> exact .inl ⟨rfl, rfl, rfl⟩
  | aborted k u _ hx =>
    rcases rxTake_linkErr hx with ⟨-, -, _, -, -, rfl⟩ | ⟨-, -, -, rfl⟩ <;> exact .inl ⟨rfl, rfl, rfl⟩
  | received b u t _ hx row =>
    rcases rxTake_byte hx with ⟨-, q, -, rfl⟩ | ⟨hv, -, hne, -, -, rfl⟩
    · exact .inl (SameCursors.trans ⟨rfl, rfl, rfl⟩ row.sameCursors)
    · refine .inr ⟨hv, by simp [isEmpty, hne], SameCursors.trans ?_ row.sameCursors⟩
      rcases ringHead_state s with e | e <;> rw [e] <;> exact ⟨rfl, rfl, rfl⟩

/-- Everything a step can do to the cursors: `wr` goes on with a put by PROD; `rd` with a get by CONS or with the framer's
taking a buffered byte when VIA_RB; never both (R23, R24, R40). -/
theorem AgentNext.cursors {s t : State} {e : AgentStep} (h : AgentNext s e t) :
    SameCursors s t ∨ (∃ b, issues e .prod (.rbPut b) ∧ SameCursors (ringStore b s) t) ∨
      ((issues e .cons .rbGet ∨ (e = .framer ∧ s.cfg.rxPath = .viaRb) ∧ isEmpty s = false) ∧
        SameCursors (ringDrop s) t) := by
  cases h with
  | operation a w i t hd hop =>
    rcases hop.cursors with hs | ⟨rfl, b, rfl, hs⟩ | ⟨rfl, rfl, hs⟩
    · exact .inl hs
    · exact .inr (.inl ⟨b, ⟨w, rfl, hd⟩, hs⟩)
    · exact .inr (.inr ⟨.inl ⟨w, rfl, hd⟩, hs⟩)
  | framer t hf =>
    rcases hf.cursors with hs | ⟨hv, hne, hs⟩
    · exact .inl hs
    · exact .inr (.inr ⟨.inr ⟨⟨rfl, hv⟩, hne⟩, hs⟩)
  | reserved | sendDirect | sendViaRb | sink | drop | answer => exact .inl ⟨rfl, rfl, rfl⟩

theorem AgentNext.cfg_eq {s t : State} {e : AgentStep} (h : AgentNext s e t) : t.cfg = s.cfg := by
  rcases h.cursors with ⟨hcfg, -⟩ | ⟨_, -, hcfg, -⟩ | ⟨-, hcfg, -⟩ <;> exact hcfg

/-! ### What a step does to the count -/

theorem ringCount_ringStore {s : State} (h : Inv s) (hf : isFull s = false) (b : Byte) :
    (ringCount (ringStore b s)).toNat = (ringCount s).toNat + 1 := by
  rw [← length_buffered, ← length_buffered,
    buffered_put (t := ringStore b s) h.params h.rdRange h.wrRange rfl rfl rfl rfl hf, List.length_append,
    List.length_singleton]

theorem ringCount_ringDrop {s : State} (h : Inv s) (he : isEmpty s = false) :
    (ringCount s).toNat = (ringCount (ringDrop s)).toNat + 1 := by
  have hne : s.rd ≠ s.wr := by simpa [isEmpty] using he
  rw [← length_buffered, ← length_buffered,
    buffered_get (t := ringDrop s) h.params h.rdRange h.wrRange rfl rfl rfl rfl hne, List.length_cons]

/-- Without a put and without a get on empty, the count does not grow. -/
theorem AgentNext.ringCount_le {s t : State} {e : AgentStep} (hn : AgentNext s e t) (h : Inv s)
    (hput : ∀ b, ¬ issues e .prod (.rbPut b)) (hget : issues e .cons .rbGet → isEmpty s = false) :
    (ringCount t).toNat ≤ (ringCount s).toNat := by
  rcases hn.cursors with hs | ⟨b, hi, -⟩ | ⟨hi, hs⟩
  · rw [hs.ringCount_eq]
  · exact absurd hi (hput b)
  · have he : isEmpty s = false := hi.elim hget And.right
    rw [hs.ringCount_eq, ringCount_ringDrop h he]
    exact Nat.le_succ _

/-- Without a get, a VIA_RB receive and a put on full, the count does not shrink. -/
theorem AgentNext.le_ringCount {s t : State} {e : AgentStep} (hn : AgentNext s e t) (h : Inv s)
    (hget : ¬ issues e .cons .rbGet) (hrecv : ¬(e = .framer ∧ s.cfg.rxPath = .viaRb))
    (hput : ∀ b, issues e .prod (.rbPut b) → isFull s = false) :
    (ringCount s).toNat ≤ (ringCount t).toNat := by
  rcases hn.cursors with hs | ⟨b, hi, hs⟩ | ⟨hi, -⟩
  · rw [hs.ringCount_eq]
  · rw [hs.ringCount_eq, ringCount_ringStore h (hput b hi)]
    exact Nat.le_succ _
  · exact absurd hi (not_or.2 ⟨hget, fun hr => hrecv hr.1⟩)

/-! ### Check, then act (R73, R114) -/

theorem hasData_iff_ringCount {s : State} (h : Inv s) : hasData s = true ↔ 0 < (ringCount s).toNat := by
  rw [Nat.pos_iff_ne_zero, ne_eq, ← isEmpty_iff_ringCount h.params h.rdRange h.wrRange, isEmpty_eq_not_hasData]
  simp

theorem isFull_eq_false_iff_ringCount {s : State} (h : Inv s) :
    isFull s = false ↔ (ringCount s).toNat < s.cfg.depth - 1 := by
  have hle := ringCount_toNat_le h.params
  rw [Bool.eq_false_iff, ne_eq, isFull_iff_ringCount h.params h.rdRange h.wrRange]
  omega

theorem slots_le_of_ringCount_le {s t : State} (hs : s.cfg.ok = true) (hcfg : t.cfg = s.cfg)
    (hle : (ringCount t).toNat ≤ (ringCount s).toNat) : slots s ≤ slots t := by
  rw [BitVec.le_def, slots_toNat hs, slots_toNat (hcfg ▸ hs), hcfg]
  exact Nat.sub_le_sub_left hle _

/-- Settles O56. FULL, SLOTS and HAS_DATA are facts about the count, which only a put raises and only a get or a VIA_RB
receive lowers. -/
theorem checkThenAct : Obligations.CheckThenAct := by
  unfold Obligations.CheckThenAct
  intro s t e h hstep
  have hn := agentStep_next hstep
  have ht := hn.keepsInv h
  refine ⟨fun hfull hput hget => ?full, fun hdata hget hrecv hput => ?data⟩
  case full =>
    have hle := hn.ringCount_le h hput hget
    refine ⟨?_, slots_le_of_ringCount_le h.params hn.cfg_eq hle⟩
    rw [isFull_eq_false_iff_ringCount ht, hn.cfg_eq]
    exact hle.trans_lt ((isFull_eq_false_iff_ringCount h).1 hfull)
  case data =>
    have hle := hn.le_ringCount h hget hrecv hput
    exact (hasData_iff_ringCount ht).2 (((hasData_iff_ringCount h).1 hdata).trans_le hle)

end Sys2Proof.Machine
end

section
/-! PROOF. Operation words (30_encoding.md R80 to R84, R91): the three fields of a word, that decoding inverts encoding
and nothing else does, and which words are reserved. -/

namespace Sys2Proof

/-! ### The fields of a word (R80) -/

theorem opcField_toNat (w : OpWord) : (opcField w).toNat = w.toNat / 2 ^ 24 := by
  have hw := w.isLt
  simp only [opcField, BitVec.extractLsb'_toNat, Nat.shiftRight_eq_div_pow]
  omega

theorem rsvField_toNat (w : OpWord) : (rsvField w).toNat = w.toNat / 2 ^ 16 % 2 ^ 8 := by
  rw [rsvField, BitVec.extractLsb'_toNat, Nat.shiftRight_eq_div_pow]

theorem argField_toNat (w : OpWord) : (argField w).toNat = w.toNat % 2 ^ 16 := by
  rw [argField, BitVec.extractLsb'_toNat, Nat.shiftRight_zero]

theorem lowByte_toNat (v : HWord) : (lowByte v).toNat = v.toNat % 2 ^ 8 := by
  rw [lowByte, BitVec.extractLsb'_toNat, Nat.shiftRight_zero]

theorem highByte_toNat (v : HWord) : (highByte v).toNat = v.toNat / 2 ^ 8 := by
  have hv := v.isLt
  simp only [highByte, BitVec.extractLsb'_toNat, Nat.shiftRight_eq_div_pow]
  omega

theorem opWord_toNat (opc : Byte) (arg : HWord) : (opWord opc arg).toNat = opc.toNat * 2 ^ 24 + arg.toNat := by
  have happend : (opWord opc arg).toNat = (opc.toNat <<< 8 ||| 0) <<< 16 ||| arg.toNat := by
    rw [← BitVec.toNat_zero (w := 8), ← BitVec.toNat_append, ← BitVec.toNat_append]
    rfl
  rw [happend, Nat.or_zero, ← Nat.shiftLeft_add, ← Nat.shiftLeft_add_eq_or_of_lt (arg.isLt.trans (by decide)),
    Nat.shiftLeft_eq]

@[simp] theorem opcField_opWord (opc : Byte) (arg : HWord) : opcField (opWord opc arg) = opc := by
  apply BitVec.eq_of_toNat_eq
  rw [opcField_toNat, opWord_toNat]
  have := arg.isLt
  omega

@[simp] theorem rsvField_opWord (opc : Byte) (arg : HWord) : rsvField (opWord opc arg) = 0#8 := by
  apply BitVec.eq_of_toNat_eq
  rw [rsvField_toNat, opWord_toNat, BitVec.toNat_zero]
  omega

@[simp] theorem argField_opWord (opc : Byte) (arg : HWord) : argField (opWord opc arg) = arg := by
  apply BitVec.eq_of_toNat_eq
  rw [argField_toNat, opWord_toNat]
  omega

/-- A word is an operation word exactly when its three fields are: no other bit is left. -/
theorem eq_opWord_iff {w : OpWord} {opc : Byte} {arg : HWord} :
    w = opWord opc arg ↔ opcField w = opc ∧ rsvField w = 0#8 ∧ argField w = arg := by
  constructor
  · rintro rfl
    simp
  · rintro ⟨rfl, hrsv, rfl⟩
    apply BitVec.eq_of_toNat_eq
    have hzero : (rsvField w).toNat = 0 := by rw [hrsv, BitVec.toNat_zero]
    rw [rsvField_toNat] at hzero
    rw [opWord_toNat, opcField_toNat, argField_toNat]
    omega

/-- A byte whose value is ARG: ARG[7:0] is the byte (R83). -/
@[simp] theorem lowByte_zeroExtend (b : Byte) : lowByte (b.zeroExtend 16) = b := by
  apply BitVec.eq_of_toNat_eq
  rw [lowByte_toNat, BitVec.toNat_setWidth_of_le (by decide), Nat.mod_eq_of_lt b.isLt]

theorem highByte_eq_zero_iff (v : HWord) : highByte v = 0#8 ↔ v = (lowByte v).zeroExtend 16 := by
  rw [← BitVec.toNat_inj, ← BitVec.toNat_inj, highByte_toNat, BitVec.toNat_setWidth, lowByte_toNat,
    BitVec.toNat_zero]
  omega

/-! ### Decoding inverts encoding (R81, R83) -/

theorem decodeNoArg_eq_ok {w : OpWord} {i j : Instr} : decodeNoArg w j = .ok i ↔ argField w = 0#16 ∧ j = i := by
  unfold decodeNoArg
  split <;> simp [*]

theorem decodePut_eq_ok {w : OpWord} {i : Instr} :
    decodePut w = .ok i ↔ highByte (argField w) = 0#8 ∧ .rbPut (lowByte (argField w)) = i := by
  unfold decodePut
  split <;> simp [*]

/-- The opcode map reads an operation word back (R81). -/
theorem decodeWord_encodeWord {i : Instr} {w : OpWord} (h : encodeWord i = some w) : decodeWord w = .ok i := by
  cases i <;> cases h
  case rbPut b =>
    have hhigh : highByte (b.zeroExtend 16) = 0#8 := (highByte_eq_zero_iff _).2 (by rw [lowByte_zeroExtend])
    simp [decodeWord, decodeOpc, decodePut, hhigh]
  all_goals simp [decodeWord, decodeOpc, decodeNoArg]

/-- What the opcode map reads is the word's own operation, with no bit of the word left over. -/
theorem encodeWord_of_decodeOpc {i : Instr} {w : OpWord} (hrsv : rsvField w = 0#8) (h : decodeOpc w = .ok i) :
    encodeWord i = some w := by
  have word : ∀ {opc : Byte} {arg : HWord}, (opcField w).toNat = opc.toNat → argField w = arg →
      some (opWord opc arg) = some w := fun hopc harg =>
    congrArg some (eq_opWord_iff.2 ⟨BitVec.eq_of_toNat_eq hopc, hrsv, harg⟩).symm
  unfold decodeOpc at h
  split at h
  case h_1 hopc =>
    obtain ⟨hhigh, rfl⟩ := decodePut_eq_ok.1 h
    exact word hopc ((highByte_eq_zero_iff _).1 hhigh)
  case h_9 hopc =>
    cases h
    exact word hopc rfl
  case h_13 => cases h
  all_goals
    obtain ⟨harg, rfl⟩ := decodeNoArg_eq_ok.1 h
    exact word ‹_› harg

theorem decodeWord_eq_ok {i : Instr} {w : OpWord} :
    decodeWord w = .ok i ↔ rsvField w = 0#8 ∧ decodeOpc w = .ok i := by
  unfold decodeWord
  split <;> simp [*]

/-- Settles O3: encoding is undone by `decodeWord_encodeWord`, decoding by `encodeWord_of_decodeOpc`. -/
theorem opWordsDecodeExactly : Obligations.OpWordsDecodeExactly := by
  unfold Obligations.OpWordsDecodeExactly
  intro i w
  refine ⟨fun h => ?_, decodeWord_encodeWord⟩
  obtain ⟨hrsv, hopc⟩ := decodeWord_eq_ok.1 h
  exact encodeWord_of_decodeOpc hrsv hopc

/-! ### Reserved words (R84) -/

theorem reservedWord_iff {rx : RxPath} {w : OpWord} :
    reservedWord rx w = true ↔ ∀ i, decodeWord w = .ok i → i.wf rx = false := by
  unfold reservedWord
  split <;> simp [*]

/-- The clauses of R84 on the fields of the word. -/
theorem reservedWord_iff_fields (rx : RxPath) (w : OpWord) :
    reservedWord rx w = true ↔
      (opcField w).toNat ∉ [0x10, 0x11, 0x20, 0x30, 0x31, 0x32, 0x33, 0x40, 0x41, 0x42, 0x43, 0x44] ∨
      rsvField w ≠ 0#8 ∨
      ((opcField w).toNat = 0x10 ∧ highByte (argField w) ≠ 0#8) ∨
      ((opcField w).toNat ≠ 0x10 ∧ (opcField w).toNat ≠ 0x41 ∧ argField w ≠ 0#16) ∨
      ((opcField w).toNat = 0x11 ∧ rx = .direct) := by
  by_cases hrsv : rsvField w = 0#8
  case neg => simp [reservedWord_iff, decodeWord_eq_ok, hrsv]
  simp only [reservedWord_iff, decodeWord_eq_ok, hrsv, true_and]
  unfold decodeOpc
  split
  case h_1 hopc => simp [hopc, decodePut_eq_ok, Instr.wf]
  case h_2 hopc => cases rx <;> simp [hopc, decodeNoArg_eq_ok, Instr.wf]
  case h_9 hopc => simp [hopc, Instr.wf]
  case h_13 =>
    refine iff_of_true nofun (.inl ?_)
    simp only [List.mem_cons, List.not_mem_nil, or_false, not_or]
    and_intros <;> assumption
  all_goals simp [*, decodeNoArg_eq_ok, Instr.wf]

/-- Settles O4: the clauses of R84 with each field as a number. -/
theorem reservedWordsAreExactly : Obligations.ReservedWordsAreExactly := by
  unfold Obligations.ReservedWordsAreExactly
  intro rx w
  have hhigh : (highByte (argField w)).toNat = w.toNat / 2 ^ 8 % 2 ^ 8 := by
    rw [highByte_toNat, argField_toNat]
    omega
  simp only [reservedWord_iff_fields, BitVec.toNat_ne, hhigh, opcField_toNat, rsvField_toNat, argField_toNat,
    BitVec.toNat_zero]

/-! ### The table of operation words (R81, R91) -/

/-- Settles O1: each word is decoded by its three fields. -/
theorem workedEncodingsDecode : Obligations.WorkedEncodingsDecode := by
  unfold Obligations.WorkedEncodingsDecode
  exact ⟨rfl, rfl, rfl, rfl, rfl, rfl, rfl, rfl, rfl, rfl, rfl, rfl, rfl, rfl, fun _ => ⟨rfl, rfl, rfl⟩⟩

/-- Settles O2: every operation's word is an `opWord`, whose number is OPC's and ARG's. -/
theorem opWordNumbers : Obligations.OpWordNumbers := by
  unfold Obligations.OpWordNumbers
  refine ⟨fun b => ⟨_, rfl, ?_⟩, fun i => ⟨_, rfl, opWord_toNat _ i⟩, ?_, fun b => b.isLt, fun i => i.isLt⟩
  · rw [opWord_toNat, BitVec.toNat_setWidth_of_le (by decide)]
    rfl
  · intro p hp
    have hword : encodeWord p.1 = some (opWord (BitVec.ofNat 8 p.2) 0#16) ∧ p.2 < 2 ^ 8 := by
      fin_cases hp <;> exact ⟨rfl, by decide⟩
    obtain ⟨hword, hlt⟩ := hword
    refine ⟨_, hword, ?_⟩
    rw [opWord_toNat, BitVec.toNat_ofNat, Nat.mod_eq_of_lt hlt, BitVec.toNat_zero, Nat.add_zero]

end Sys2Proof
end

section
/-! PROOF. Wire patterns (30_encoding.md R85 to R88): bytes and their number, the frames a peer finds, and that every
instruction decodes from its bits in the opcode table. -/

namespace Sys2Proof

/-! ### Bytes and 16-bit values (R9) -/

theorem le16_toNat (b0 b1 : Byte) : (le16 b0 b1).toNat = b0.toNat + 256 * b1.toNat := by
  have h0 := b0.isLt
  have h1 := b1.isLt
  rw [le16, BitVec.toNat_or, BitVec.toNat_shiftLeft, BitVec.toNat_setWidth_of_le (by decide),
    BitVec.toNat_setWidth_of_le (by decide), Nat.or_comm, Nat.mod_eq_of_lt (by rw [Nat.shiftLeft_eq]; omega),
    ← Nat.shiftLeft_add_eq_or_of_lt h0, Nat.shiftLeft_eq]
  omega

/-- LE16 puts the bytes of a value together again (R146). -/
@[simp] theorem le16_lowByte_highByte (v : HWord) : le16 (lowByte v) (highByte v) = v := by
  apply BitVec.eq_of_toNat_eq
  rw [le16_toNat, lowByte_toNat, highByte_toNat]
  omega

/-! ### Sent frames (R85, R86) -/

theorem decodeTx_frameCount (rest : List Byte) : decodeTx (frameCount ++ rest) = .ok (.getImageCount, rest) := rfl

theorem decodeTx_frameImage (idx : HWord) (rest : List Byte) :
    decodeTx (frameImage idx ++ rest) = .ok (.getImage idx, rest) := by
  have hdec : decodeTx (frameImage idx ++ rest) = .ok (.getImage (le16 (lowByte idx) (highByte idx)), rest) := rfl
  rw [hdec, le16_lowByte_highByte]

theorem decodeCommand_unknown {code : Byte} (hcount : code ≠ Config.cmdCount) (himage : code ≠ Config.cmdImage)
    (rest : List Byte) : decodeCommand code rest = .error .cmdUnknown := by
  unfold decodeCommand
  rw [if_neg hcount, if_neg himage]

/-- Settles O6: the peer reads ESC and the command code, and the code alone decides what follows. -/
theorem sentFramesDecode : Obligations.SentFramesDecode := by
  unfold Obligations.SentFramesDecode
  refine ⟨decodeTx_frameCount, fun i rest => ?_, fun _ => rfl, fun code rest hcount himage => ?_⟩
  · exact ⟨lowByte i, highByte i, decodeTx_frameImage i rest, rfl, lowByte_toNat i, highByte_toNat i,
      le16_lowByte_highByte i⟩
  · exact decodeCommand_unknown hcount himage rest

/-! ### The number of a wire pattern (log entry 12) -/

theorem natOfWire_append_singleton (bs : List Byte) (b : Byte) :
    natOfWire (bs ++ [b]) = natOfWire bs * 256 + b.toNat := by
  simp [natOfWire]

/-- The first byte is leftmost: it weighs the most. -/
theorem natOfWire_cons (b : Byte) (bs : List Byte) :
    natOfWire (b :: bs) = b.toNat * 256 ^ bs.length + natOfWire bs := by
  induction bs using List.reverseRecOn with
  | nil => simp [natOfWire]
  | append_singleton bs c ih =>
    rw [← List.cons_append, natOfWire_append_singleton, ih, natOfWire_append_singleton, List.length_append,
      List.length_singleton, pow_succ]
    ring

theorem natOfWire_lt (bs : List Byte) : natOfWire bs < 256 ^ bs.length := by
  induction bs with
  | nil => exact Nat.one_pos
  | cons b bs ih =>
    have hb : b.toNat < 256 := b.isLt
    rw [natOfWire_cons, List.length_cons, pow_succ']
    calc b.toNat * 256 ^ bs.length + natOfWire bs < (b.toNat + 1) * 256 ^ bs.length := by rw [Nat.add_one_mul]; omega
      _ ≤ 256 * 256 ^ bs.length := Nat.mul_le_mul_right _ hb

/-- Only the last `n` bytes of a number are read. -/
theorem wireOfNat_add (n k w : Nat) : wireOfNat n (k * 256 ^ n + w) = wireOfNat n w := by
  induction n generalizing k with
  | zero => rfl
  | succ n ih =>
    have hpos : 0 < 256 ^ n := Nat.pow_pos (by decide)
    have hsplit : k * 256 ^ (n + 1) + w = k * 256 * 256 ^ n + w := by rw [pow_succ', Nat.mul_assoc]
    rw [hsplit, wireOfNat, wireOfNat, ih]
    congr 1
    apply BitVec.eq_of_toNat_eq
    rw [Nat.add_comm, Nat.add_mul_div_right _ _ hpos, BitVec.toNat_ofNat, BitVec.toNat_ofNat]
    omega

/-- The bytes of a wire pattern are read back from its number. -/
theorem wireOfNat_natOfWire (bs : List Byte) : wireOfNat bs.length (natOfWire bs) = bs := by
  induction bs with
  | nil => rfl
  | cons b bs ih =>
    have hpos : 0 < 256 ^ bs.length := Nat.pow_pos (by decide)
    rw [List.length_cons, natOfWire_cons, wireOfNat, wireOfNat_add, ih, Nat.add_comm, Nat.add_mul_div_right _ _ hpos,
      Nat.div_eq_of_lt (natOfWire_lt bs), Nat.zero_add, BitVec.ofNat_toNat, BitVec.setWidth_eq]

/-! ### The opcode table (R81, R85, R88) -/

theorem encode_operation {i : Instr} {w : OpWord} (h : encodeWord i = some w) : encode i = (32, w.toNat) := by
  rw [encode, h]

theorem encode_wire {i : Instr} (h : encodeWord i = none) :
    encode i = (8 * (wireBytes i).length, natOfWire (wireBytes i)) := by
  rw [encode, h]

theorem decodeTableWord_operation {i : Instr} {w : OpWord} (h : encodeWord i = some w) :
    decodeTableWord 32 w.toNat = some i := by
  rw [decodeTableWord, BitVec.ofNat_toNat, BitVec.setWidth_eq, decodeWord_encodeWord h]

/-- The GetImage frame is no operation word: its second byte stands at RSV, which is 0 in every operation word. -/
theorem decodeWord_frameImage (idx : HWord) :
    decodeWord (BitVec.ofNat 32 (natOfWire (frameImage idx))) = .error .rsvNonzero := by
  have hlo := (lowByte idx).isLt
  have hhi := (highByte idx).isLt
  have hnat : natOfWire (frameImage idx) = 0xFF02 * 2 ^ 16 + ((lowByte idx).toNat * 256 + (highByte idx).toNat) := by
    simp [frameImage, natOfWire, Config.esc, Config.cmdImage]
    omega
  have hrsv : (rsvField (BitVec.ofNat 32 (natOfWire (frameImage idx)))).toNat = 2 := by
    rw [rsvField_toNat, BitVec.toNat_ofNat, hnat]
    omega
  have hne : rsvField (BitVec.ofNat 32 (natOfWire (frameImage idx))) ≠ 0#8 := by
    intro h0
    rw [h0] at hrsv
    cases hrsv
  rw [decodeWord, if_neg hne]

theorem decodeTableWord_frameImage (idx : HWord) :
    decodeTableWord 32 (natOfWire (frameImage idx)) = some (.getImage idx) := by
  have hbytes : wireOfNat 4 (natOfWire (frameImage idx)) = frameImage idx := wireOfNat_natOfWire (frameImage idx)
  have hframe := decodeTx_frameImage idx []
  rw [List.append_nil] at hframe
  rw [decodeTableWord, decodeWord_frameImage, hbytes, hframe]

/-- A received pattern has two bytes, numbered with the first leftmost, and its position gives it back. -/
theorem received_encode {i : Instr} {p : RxPos} (h : rxPosOf i = some p) :
    ∃ b0 b1, wireBytes i = [b0, b1] ∧ (encode i).1 = 16 ∧ (encode i).2 = b0.toNat * 256 + b1.toNat ∧
      decodeRx p b0 b1 = i := by
  have pair : ∀ {b0 b1 : Byte}, natOfWire [b0, b1] = b0.toNat * 256 + b1.toNat := by simp [natOfWire]
  cases i <;> cases h <;> exact ⟨_, _, rfl, rfl, pair, rfl⟩

theorem decodeTableWord_encode {i : Instr} (h : rxPosOf i = none) :
    decodeTableWord (encode i).1 (encode i).2 = some i := by
  cases hw : encodeWord i with
  | some w =>
    rw [encode_operation hw]
    exact decodeTableWord_operation hw
  | none =>
    rw [encode_wire hw]
    cases i with
    | getImageCount => rfl
    | ready => rfl
    | getImage idx => exact decodeTableWord_frameImage idx
    | countResp | tileHdr | payloadPixel => cases h
    | _ => cases hw

/-- Settles O5: by whether the instruction is received. -/
theorem tableNumberRoundTrip : Obligations.TableNumberRoundTrip := by
  unfold Obligations.TableNumberRoundTrip
  intro i
  split
  · exact decodeTableWord_encode ‹_›
  · exact received_encode ‹_›

end Sys2Proof
end

section
/-! PROOF. What a step does with a reserved word and with a word issued by an agent that does not own its port (R82,
R84, R246), and the framer's steps of GETIMAGE and PAYLOAD_PIXEL (R146, R149, R155). -/

namespace Sys2Proof.Machine

/-! ### Reserved words (R84) -/

/-- RX_PATH takes one operation away, RB.PERR when DIRECT (R84). -/
theorem wf_eq_false_iff {rx : RxPath} {i : Instr} : i.wf rx = false ↔ i = .rbPerr ∧ rx = .direct := by
  cases i <;> cases rx <;> simp [Instr.wf]

theorem execRbPerr_direct {s : State} (h : s.cfg.rxPath = .direct) :
    execRbPerr s = .next (rejectWord .reserved s) := by
  rw [execRbPerr, h]

theorem issueWord_reserved {w : OpWord} {s : State} (h : reservedWord s.cfg.rxPath w = true) (a : Agent) :
    issueWord a w s = .next (rejectWord .reserved { s with issuer := a }) := by
  unfold issueWord
  split
  · rename_i i hdec
    obtain ⟨rfl, hdirect⟩ := wf_eq_false_iff.1 (reservedWord_iff.1 h i hdec)
    exact execRbPerr_direct (s := { s with issuer := a }) hdirect
  · rfl

/-- Settles O10: the given step is taken, its agent exists, and its word is rejected before the port is looked at. -/
theorem stepRejectsReservedWord : Obligations.StepRejectsReservedWord := by
  unfold Obligations.StepRejectsReservedWord
  intro s a w rest hok hagenda hex hres
  calc step s
    _ = agentStep (.issue a w) { s with agenda := rest } := step_agenda hok hagenda
    _ = issueWord a w { s with agenda := rest } :=
      agentStep_issue (s := { s with agenda := rest }) hex w
    _ = .next (rejectWord .reserved { s with agenda := rest, issuer := a }) :=
      issueWord_reserved (s := { s with agenda := rest }) hres a

/-! ### Port violations (R82) -/

theorem ownsPort_eq_false_iff {rx : RxPath} {a : Agent} {p : Port} :
    ownsPort rx a p = false ↔
      (p = .producer ∧ a ≠ .prod) ∨ (p = .consumer ∧ (a ≠ .cons ∨ rx = .viaRb)) ∨
        (p = .control ∧ a ≠ .caller) := by
  cases p with
  | consumer => cases rx <;> simp [ownsPort]
  | _ => simp [ownsPort]

/-- Every operation begins with its port check, RB.PERR once it is not reserved (R82, R246). -/
theorem exec_notOwner {i : Instr} {p : Port} {s : State} (hport : portOf i = some p)
    (hwf : i.wf s.cfg.rxPath = true) (hown : ownsPort s.cfg.rxPath s.issuer p = false) :
    exec i s = .next (rejectWord .port s) := by
  cases i <;> cases hport
  case rbPerr =>
    have hvia : s.cfg.rxPath = .viaRb := by simpa [Instr.wf] using hwf
    rw [exec, execRbPerr, hvia]
    exact guardPort_other hown
  case rbPut | rbGet => exact guardPort_other hown
  case rbHasdata | rbIsempty | rbIsfull | rbSlots => cases hown
  all_goals simp only [exec, execFrQc, execFrTile, execFrStat, execFrCount, execFrOrigin, guardPort_other hown]

/-- Settles O28: the three clauses are the agents that do not own the port. -/
theorem portViolations : Obligations.PortViolations := by
  unfold Obligations.PortViolations
  intro i p s hport hwf hother
  exact exec_notOwner hport hwf (ownsPort_eq_false_iff.2 hother)

/-! ### GETIMAGE (R146, R155) -/

theorem execGetImage_sends {s : State} {i : HWord} {k : Fin 4} {b : Byte} {n : Fsm} (hf : s.fsm = .rtTx k)
    (row : SendRow i (.rtTx k) b n) : execGetImage i s = .next (txSend b n s) := by
  cases row <;> simp only [execGetImage, hf]

/-- The four bytes of the frame and where each leads, as numbers (R146). -/
theorem imageRow (i : HWord) (k : Fin 4) :
    ∃ b n, SendRow i (.rtTx k) b n ∧ b.toNat = [0xFF, 0x02, i.toNat % 256, i.toNat / 256].getD k.val 0 ∧
      n = [Fsm.rtTx 1, .rtTx 2, .rtTx 3, .rtHdr 0].getD k.val .idle := by
  match k with
  | 0 => exact ⟨_, _, .rt0, rfl, rfl⟩
  | 1 => exact ⟨_, _, .rt1, rfl, rfl⟩
  | 2 => exact ⟨_, _, .rt2, lowByte_toNat i, rfl⟩
  | 3 => exact ⟨_, _, .rt3, highByte_toNat i, rfl⟩

/-- Settles O35: the position's row is sent, and a send with the sink ready writes the log and `fsm` alone. -/
theorem imageFrameSent : Obligations.ImageFrameSent := by
  unfold Obligations.ImageFrameSent
  intro s i k hf hready
  obtain ⟨b, n, row, hb, hn⟩ := imageRow i k
  refine ⟨{ s with txlog := s.txlog ++ [b], fsm := n }, b, ?_, rfl, hb, hn, rfl, rfl, rfl, rfl, rfl, rfl, rfl, rfl,
    ⟨fun _ => rfl, rfl, rfl, rfl⟩, fun _ => rfl, ⟨rfl, rfl, rfl, rfl, rfl⟩, ⟨rfl, rfl, rfl, rfl⟩, rfl⟩
  rw [exec, execGetImage_sends hf row, txSend_ready hready]

/-! ### PAYLOAD_PIXEL (R149, R155) -/

theorem execPayloadPixel_stores {s : State} {m j : Nat} (hf : s.fsm = .rtPay m j)
    (hp : m * s.cfg.chunk + j < s.cfg.payload) (lo hi : Byte) :
    execPayloadPixel lo hi s = .next { s with
      tb := s.tb.write (m * s.cfg.chunk + j) (if (m * s.cfg.chunk + j) % 2 = 0 then lo else hi)
      fsm := afterPayload s.cfg m j } := by
  rw [execPayloadPixel, hf]
  exact if_pos hp

theorem afterPayload_inChunk {c : Params} {j : Nat} (h : j + 1 < c.chunk) (m : Nat) :
    afterPayload c m j = .rtPay m (j + 1) := if_pos h

theorem afterPayload_chunkEnd {c : Params} {m j : Nat} (hj : j + 1 = c.chunk) (hm : m + 1 < c.nchunk) :
    afterPayload c m j = .rtRdy (m + 1) := by
  rw [afterPayload, if_neg hj.not_lt, if_pos hm]

theorem afterPayload_tileEnd {c : Params} {m j : Nat} (hj : j + 1 = c.chunk) (hm : m + 1 = c.nchunk) :
    afterPayload c m j = .rtDisp := by
  rw [afterPayload, if_neg hj.not_lt, if_neg hm.not_lt]

/-- Settles O40: the offset is in TB, and one write there and the next position are all that changes. -/
theorem payloadStored : Obligations.PayloadStored := by
  unfold Obligations.PayloadStored
  intro s lo hi m j hok hf hm hj
  have hp := payload_offset_lt hok hm hj
  exact ⟨_, execPayloadPixel_stores hf hp lo hi, hp, Memory.read_write_same _ _ _,
    fun _ ha => Memory.read_write_other _ _ ha, fun h => afterPayload_inChunk h m, afterPayload_chunkEnd,
    afterPayload_tileEnd, rfl, rfl, rfl, rfl, rfl, ⟨fun _ => rfl, rfl, rfl, rfl⟩, ⟨rfl, rfl, rfl, rfl, rfl⟩,
    ⟨rfl, rfl, rfl, rfl⟩, ⟨rfl, rfl, rfl, rfl⟩, rfl⟩

end Sys2Proof.Machine
end

section
/-! PROOF. The seven ring buffer operations one at a time (40_ring_buffer.md R101 to R107, R111, R112, R116): what each
answers, for the agent that may issue it. -/

namespace Sys2Proof.Machine

/-! ### Cursors (R116) -/

theorem advance_toNat {c : Params} (h : c.ok = true) (cur : HWord) :
    (advance c cur).toNat = (cur.toNat + 1) % c.depth :=
  add_and_mask h cur 1

theorem mask_toNat_succ {c : Params} (h : c.ok = true) : c.mask.toNat + 1 = c.depth := by
  have hdepth := (depth_bounds h).1
  rw [mask_toNat_of_ok h, Nat.sub_add_cancel (by omega)]

theorem advance_mask {c : Params} (h : c.ok = true) : advance c c.mask = 0#16 := by
  apply BitVec.eq_of_toNat_eq
  rw [advance_toNat h, mask_toNat_succ h, Nat.mod_self, BitVec.toNat_zero]

/-- Settles O16: N is a power of two, so `& MASK` is `mod N` for a sum and for a difference of cursors. -/
theorem cursorArithmetic : Obligations.CursorArithmetic := by
  unfold Obligations.CursorArithmetic
  intro c v a b h ha hb
  obtain ⟨-, hlog, -⟩ := params_bounds h
  exact ⟨mask_toNat_succ h, and_mask_toNat c hlog v, advance_toNat h a, advance_le c a, advance_mask h,
    sub_and_mask h a b ha hb⟩

/-! ### Status reads (R104 to R107) -/

/-- An agent that exists runs the operation whose word it issues (R81). -/
theorem agentStep_operation {a : Agent} {s : State} (hex : a = .cons → s.cfg.rxPath = .direct) {i : Instr} {w : OpWord}
    (hw : encodeWord i = some w) : agentStep (.issue a w) s = exec i { s with issuer := a } := by
  rw [agentStep_issue hex, issueWord_decoded (decodeWord_encodeWord hw)]

/-- The status port is open to every agent (R82). -/
theorem guardPort_status (s : State) (body : State → Out) : guardPort .status s body = body s := guardPort_owner rfl

theorem exec_rbHasdata (s : State) : exec .rbHasdata s = .next (answer (if s.rd = s.wr then 0#16 else 1#16) s) := by
  rw [exec, execRbHasdata, guardPort_status]
  simp [flagWord, hasData]

theorem exec_rbIsempty (s : State) : exec .rbIsempty s = .next (answer (if s.rd = s.wr then 1#16 else 0#16) s) := by
  rw [exec, execRbIsempty, guardPort_status]
  simp [flagWord, isEmpty]

theorem exec_rbIsfull (s : State) :
    exec .rbIsfull s = .next (answer (if s.rd = (s.wr + 1#16) &&& s.cfg.mask then 1#16 else 0#16) s) := by
  rw [exec, execRbIsfull, guardPort_status]
  simp [flagWord, isFull]

theorem exec_rbSlots (s : State) : exec .rbSlots s = .next (answer (slots s) s) := by
  rw [exec, execRbSlots, guardPort_status]

/-- Settles O22: RB.HASDATA and RB.ISEMPTY decide the same equality, each with its own word. -/
theorem hasDataReads : Obligations.HasDataReads := by
  unfold Obligations.HasDataReads
  intro s a hex answered
  refine ⟨agentStep_operation hex rfl, fun hne => ?_, fun heq => ?_⟩
  · rw [exec_rbHasdata, exec_rbIsempty, if_neg hne, if_neg hne]
    exact ⟨rfl, rfl⟩
  · rw [exec_rbHasdata, exec_rbIsempty, if_pos heq, if_pos heq]
    exact ⟨rfl, rfl⟩

/-- With wr = MASK, FULL is rd = 0 (R106). -/
theorem isFull_wr_mask {s : State} (h : s.cfg.ok = true) (hw : s.wr = s.cfg.mask) :
    isFull s = true ↔ s.rd = 0#16 := by
  rw [isFull, decide_eq_true_iff, hw, ← advance, advance_mask h]

/-- Settles O24. With N = 2, FULL is N − 1 = 1 byte buffered. -/
theorem isFullReads : Obligations.IsFullReads := by
  unfold Obligations.IsFullReads
  intro s a hex
  refine ⟨agentStep_operation hex rfl, fun heq => ?_, fun hne => ?_, fun h hr hw => ⟨fun hdepth => ?_, isFull_wr_mask h⟩⟩
  · rw [exec_rbIsfull, if_pos heq]
    rfl
  · rw [exec_rbIsfull, if_neg hne]
    rfl
  · rw [isFull_iff_ringCount h hr hw, hdepth, length_buffered]

/-- Settles O25. -/
theorem slotsReads : Obligations.SlotsReads := by
  unfold Obligations.SlotsReads
  intro s a hex h hr hw
  refine ⟨slots s, ?_, exec_rbSlots s, agentStep_operation hex rfl⟩
  rw [slots_toNat h, ringCount_toNat h hr hw]

/-! ### RB.PERR (R102) -/

theorem execRbPerr_prod {s : State} (hv : s.cfg.rxPath = .viaRb) (ha : s.issuer = .prod) :
    execRbPerr s = .next (answer 0#16 { s with linkErr := true }) := by
  rw [execRbPerr, hv]
  exact guardPort_owner (by simp [ownsPort, ha])

/-- Settles O21, by RX_PATH. -/
theorem linkErrorReport : Obligations.LinkErrorReport := by
  unfold Obligations.LinkErrorReport
  intro s
  refine ⟨fun hv ha => ?_, execRbPerr_direct⟩
  rw [← ha]
  exact execRbPerr_prod hv ha

/-! ### RB.PUT (R101, R111) -/

theorem exec_rbPut_eq_putByte {s : State} (ha : s.issuer = .prod) (b : Byte) : exec (.rbPut b) s = putByte b s :=
  guardPort_owner (by simp [ownsPort, ha])

/-- PROD's put is performed whether the buffer is full or not, and raises its fault exactly when it is (R101, D6). -/
theorem exec_rbPut_prod {s : State} (ha : s.issuer = .prod) (hw : s.wr ≤ s.cfg.mask) (b : Byte) :
    ∃ fs : FaultSet, exec (.rbPut b) s = .next (answer 0#16 (ringStore b { s with faults := fs })) ∧
      ∀ f, fs.has f = (s.faults.has f || decide (f = .rbPutFull ∧ isFull s = true)) := by
  rw [exec_rbPut_eq_putByte ha, putByte, if_pos ((slotExists_iff _ _).2 hw)]
  cases isFull s with
  | false => exact ⟨s.faults, rfl, fun f => by simp⟩
  | true => exact ⟨s.faults.add .rbPutFull, rfl, fun f => by simp [Bool.or_comm, eq_comm]⟩

/-- A put that completes is the put of R101. -/
theorem exec_rbPut_next {s t : State} {b : Byte} (ha : s.issuer = .prod) (h : exec (.rbPut b) s = .next t) :
    ∃ fs : FaultSet, t = answer 0#16 (ringStore b { s with faults := fs }) ∧
      ∀ f, fs.has f = (s.faults.has f || decide (f = .rbPutFull ∧ isFull s = true)) := by
  obtain ⟨hw, -⟩ := putByte_next ((exec_rbPut_eq_putByte ha b).symm.trans h)
  obtain ⟨fs, hput, hfs⟩ := exec_rbPut_prod ha hw b
  rw [hput] at h
  cases h
  exact ⟨fs, rfl, hfs⟩

/-- Settles O17: the put writes one slot, `wr`, the fault set and the result words alone. -/
theorem putStoresAndAdvances : Obligations.PutStoresAndAdvances := by
  unfold Obligations.PutStoresAndAdvances
  intro s b ha hw
  obtain ⟨fs, hput, hfs⟩ := exec_rbPut_prod ha hw b
  refine ⟨_, hput, Memory.read_write_same _ _ _, fun _ hne => Memory.read_write_other _ _ hne, rfl, rfl, rfl, ?_, ?_,
    fun _ => rfl, ⟨rfl, rfl, rfl, rfl⟩, ⟨rfl, rfl, rfl, rfl, rfl⟩, ⟨rfl, rfl, rfl, rfl⟩, ⟨rfl, rfl, rfl, rfl⟩, rfl⟩
  · rw [← ha]
    rfl
  · simpa [isFull] using hfs

/-- An empty buffer buffers nothing and has N − 1 slots free (R27). -/
theorem buffered_of_empty {s : State} (h : s.wr = s.rd) : buffered s = [] := by
  simp [buffered, ringCount, h]

theorem slots_of_empty {s : State} (hok : s.cfg.ok = true) (h : s.wr = s.rd) : (slots s).toNat = s.cfg.depth - 1 := by
  simp [slots_toNat hok, ringCount, h]

/-- FULL says that `wr` advances to `rd` (R26). -/
theorem advance_wr_of_isFull {s : State} (h : isFull s = true) : advance s.cfg s.wr = s.rd := (of_decide_eq_true h).symm

/-- Settles O18: the put stores its byte, and `wr` goes on to `rd`. -/
theorem putOnFullEmpties : Obligations.PutOnFullEmpties := by
  unfold Obligations.PutOnFullEmpties
  intro s b hok ha hr hw hlen
  have hfull : isFull s = true := (isFull_iff_ringCount hok hr hw).2 (by rw [← length_buffered, hlen])
  have heq := advance_wr_of_isFull hfull
  obtain ⟨fs, hput, hfs⟩ := exec_rbPut_prod ha hw b
  exact ⟨_, hput, heq, buffered_of_empty heq, decide_eq_true heq.symm, slots_of_empty hok heq, by simp [hfs, hfull]⟩

/-- Settles O23. A put on a full buffer leaves the cursors equal, as reset does. -/
theorem isEmptyReads : Obligations.IsEmptyReads := by
  unfold Obligations.IsEmptyReads
  intro s a hex
  refine ⟨agentStep_operation hex rfl, exec_rbIsempty s, fun c => exec_rbIsempty _, ?_⟩
  intro b t ha hfull hstep
  obtain ⟨fs, rfl, -⟩ := exec_rbPut_next ha hstep
  have heq : s.rd = advance s.cfg s.wr := (advance_wr_of_isFull hfull).symm
  rw [exec_rbIsempty, if_pos (by simpa using heq), ← ha]
  rfl

/-! ### RB.GET (R103, R112) -/

theorem exec_rbGet_eq_getByte {s : State} (ha : s.issuer = .cons) (hd : s.cfg.rxPath = .direct) :
    exec .rbGet s = getByte s :=
  guardPort_owner (by simp [ownsPort, ha, hd])

theorem getByte_empty {s : State} (h : s.rd = s.wr) :
    getByte s = .next (answer ((Config.draw8 s.draws 0).zeroExtend 16)
      (ringDrop (countDraw (raiseFault .rbGetEmpty s)))) := by
  simp [getByte, isEmpty, h]

theorem getByte_buffered {s : State} (hr : s.rd ≤ s.cfg.mask) (hne : s.rd ≠ s.wr) :
    getByte s = .next (answer ((ringHead s).1.zeroExtend 16) (ringDrop (ringHead s).2)) := by
  simp [getByte, isEmpty, hne, hr]

/-- CONS takes a buffered byte that was written (R103). -/
theorem exec_rbGet_written {s : State} {v : Byte} (ha : s.issuer = .cons) (hd : s.cfg.rxPath = .direct)
    (hr : s.rd ≤ s.cfg.mask) (hne : s.rd ≠ s.wr) (hv : s.rbMem.read s.rd.toNat = some v) :
    exec .rbGet s = .next (answer (v.zeroExtend 16) (ringDrop s)) := by
  rw [exec_rbGet_eq_getByte ha hd, getByte_buffered hr hne, ringHead_written hv]

/-- Settles O19: the get writes `rd` and the result words alone. -/
theorem getTakesOldest : Obligations.GetTakesOldest := by
  unfold Obligations.GetTakesOldest
  intro s v ha hd hr hne hv
  refine ⟨_, v.zeroExtend 16, exec_rbGet_written ha hd hr hne hv, rfl, rfl, rfl, fun _ => rfl, ?_, ?_, rfl,
    fun _ => rfl, ⟨rfl, rfl, rfl, rfl⟩, ⟨rfl, rfl, rfl, rfl, rfl⟩, ⟨rfl, rfl, rfl, rfl⟩, ⟨rfl, rfl, rfl, rfl⟩, rfl⟩
  · rw [← ha]
    rfl
  · exact BitVec.toNat_setWidth_of_le (by decide)

/-- Where no byte is buffered or the slot is unwritten, CONS draws a byte and advances `rd`, and the fault is raised
exactly when EMPTY was 1 (R103, R112, D7). -/
theorem exec_rbGet_drawn {s : State} (ha : s.issuer = .cons) (hd : s.cfg.rxPath = .direct) (hr : s.rd ≤ s.cfg.mask)
    (hnone : s.rd = s.wr ∨ s.rbMem.read s.rd.toNat = none) :
    ∃ fs : FaultSet, exec .rbGet s = .next (answer ((Config.draw8 s.draws 0).zeroExtend 16)
        (ringDrop { s with faults := fs, draws := s.draws + 1 })) ∧
      ∀ f, fs.has f = (s.faults.has f || decide (f = .rbGetEmpty ∧ s.rd = s.wr)) := by
  rw [exec_rbGet_eq_getByte ha hd]
  by_cases he : s.rd = s.wr
  · rw [getByte_empty he]
    exact ⟨s.faults.add .rbGetEmpty, rfl, fun f => by simp [he, Bool.or_comm, eq_comm]⟩
  · have hread : s.rbMem.read s.rd.toNat = none := hnone.resolve_left he
    have hhead : ringHead s = (Config.draw8 s.draws 0, countDraw s) := by rw [ringHead, hread]
    rw [getByte_buffered hr he, hhead]
    exact ⟨s.faults, rfl, fun f => by simp [he]⟩

/-- Settles O20. After a get on an empty buffer `rd` is one ahead of `wr`, which is FULL. -/
theorem getDrawsWhereNothingIs : Obligations.GetDrawsWhereNothingIs := by
  unfold Obligations.GetDrawsWhereNothingIs
  intro s hok ha hd hr hw hnone
  obtain ⟨fs, hget, hfs⟩ := exec_rbGet_drawn ha hd hr hnone
  refine ⟨_, hget, rfl, rfl, rfl, fun _ => rfl, ?_, rfl, hfs, fun he => ?_, fun _ => rfl, ⟨rfl, rfl, rfl, rfl⟩,
    ⟨rfl, rfl, rfl, rfl, rfl⟩, ⟨rfl, rfl, rfl, rfl⟩, ⟨rfl, rfl, rfl, rfl⟩⟩
  · rw [← ha]
    rfl
  · have hfull : isFull (ringDrop s) = true := decide_eq_true (congrArg (advance s.cfg) he)
    refine ⟨hfull, ?_⟩
    have hcount := (isFull_iff_ringCount (s := ringDrop s) hok (advance_le _ _) hw).1 hfull
    exact (length_buffered _).trans hcount

end Sys2Proof.Machine
end

section
/-! PROOF. FIFO order (R109), one operation at a time and over runs, and that every buffered slot stays written as long as
no ring fault is raised (R113). -/

namespace Sys2Proof.Machine

/-! ### What a put and a get do to the buffered bytes (R109) -/

theorem buffered_ringStore {s : State} (hok : s.cfg.ok = true) (hr : s.rd ≤ s.cfg.mask) (hw : s.wr ≤ s.cfg.mask)
    (hfull : isFull s = false) (b : Byte) : buffered (ringStore b s) = buffered s ++ [some b] :=
  buffered_put hok hr hw rfl rfl rfl rfl hfull

theorem buffered_ringDrop {s : State} (hok : s.cfg.ok = true) (hr : s.rd ≤ s.cfg.mask) (hw : s.wr ≤ s.cfg.mask)
    (hne : s.rd ≠ s.wr) : buffered s = s.rbMem.read s.rd.toNat :: buffered (ringDrop s) :=
  buffered_get hok hr hw rfl rfl rfl rfl hne

/-- A read of the oldest slot leaves what is buffered behind it. -/
theorem buffered_ringDrop_ringHead (s : State) : buffered (ringDrop (ringHead s).2) = buffered (ringDrop s) := by
  rcases ringHead_state s with e | e <;> rw [e]
  rfl

/-- Settles O26: each operation leaves the ring buffer that `ringStore` or `ringDrop` leaves. -/
theorem fifoPerOperation : Obligations.FifoPerOperation := by
  unfold Obligations.FifoPerOperation
  intro s t b hok hr hw
  refine ⟨fun ha hfull hput => ?put, fun ha hd hempty hget => ?get, fun hv htake => ?receive⟩
  case put =>
    obtain ⟨fs, rfl, -⟩ := exec_rbPut_next ha hput
    exact buffered_ringStore hok hr hw hfull b
  case get =>
    rw [exec_rbGet_eq_getByte ha hd] at hget
    rcases getByte_next hget with ⟨he, -⟩ | ⟨hne, -, rfl⟩
    · simp [isEmpty, he] at hempty
    · rw [buffered_ringDrop hok hr hw hne, ← buffered_ringDrop_ringHead]
      rfl
  case receive =>
    rcases rxTake_byte htake with ⟨hd, -⟩ | ⟨-, -, hne, -, rfl, rfl⟩
    · rw [hd] at hv
      cases hv
    · refine ⟨?_, fun v hread => by rw [ringHead_written hread]⟩
      rw [buffered_ringDrop hok hr hw hne, buffered_ringDrop_ringHead]

/-! ### Fault codes are sticky (R243) -/

@[simp] theorem ringHead_faults (s : State) : (ringHead s).2.faults = s.faults := by
  rcases ringHead_state s with e | e <;> rw [e]
  rfl

@[simp] theorem pairOperand_faults (lo hi : Option Byte) (s : State) : (pairOperand lo hi s).2.faults = s.faults := by
  rcases pairOperand_state lo hi s with e | e <;> rw [e]
  rfl

theorem OpNext.keepsFault {u t : State} {i : Instr} (h : OpNext u i t) {f : FaultCode} (hf : u.faults.has f = true) :
    t.faults.has f = true := by
  cases h with
  | port | perrDirect | queryBusy | tileBusy | countUndef | originUndef | getEmpty | get | count | origin => simp [hf]
  | put => split <;> simp [hf]
  | perr | status | stat | query | tile => exact hf

theorem FramerNext.faults_eq {s t : State} (h : FramerNext s t) : t.faults = s.faults := by
  cases h with
  | stay | holdDrawn | rendered | finished => rfl
  | sent u i b n hu => rcases hu with rfl | ⟨-, -, rfl⟩ <;> rfl
  | aborted k u _ hx => rcases rxTake_linkErr hx with ⟨-, -, _, -, -, rfl⟩ | ⟨-, -, -, rfl⟩ <;> rfl
  | received b u t _ hx row =>
    have hrow : t.faults = u.faults := by cases row <;> rfl
    rw [hrow]
    rcases rxTake_byte hx with ⟨-, _, -, rfl⟩ | ⟨-, -, -, -, -, rfl⟩
    · rfl
    · exact ringHead_faults s

theorem AgentNext.keepsFault {s t : State} {e : AgentStep} (h : AgentNext s e t) {f : FaultCode}
    (hf : s.faults.has f = true) : t.faults.has f = true := by
  cases h with
  | reserved => simp [hf]
  | operation a w i t _ hop => exact hop.keepsFault (u := { s with issuer := a }) hf
  | framer t hn => rw [hn.faults_eq, hf]
  | sendDirect | sendViaRb | sink | drop | answer => exact hf

/-- Neither ring fault is in the fault set (R109, R113). -/
def noRingFault (s : State) : Prop := s.faults.has .rbPutFull = false ∧ s.faults.has .rbGetEmpty = false

/-- Where codes are sticky, no ring fault after says none before. -/
theorem noRingFault_of_sticky {s t : State} (hsticky : ∀ f, s.faults.has f = true → t.faults.has f = true)
    (ht : noRingFault t) : noRingFault s := by
  obtain ⟨hput, hget⟩ := ht
  exact ⟨Bool.eq_false_iff.2 fun hs => Bool.eq_false_iff.1 hput (hsticky _ hs),
    Bool.eq_false_iff.2 fun hs => Bool.eq_false_iff.1 hget (hsticky _ hs)⟩

/-! ### Written slots (R113) -/

/-- Whatever `t` buffers, `s` buffers too or is written. -/
def writesBuffered (s t : State) : Prop := ∀ v ∈ buffered t, v ∈ buffered s ∨ v.isSome

theorem writesBuffered_of_eq {s t : State} (h : buffered t = buffered s) : writesBuffered s t :=
  fun _ hv => .inl (h ▸ hv)

theorem writesBuffered_ringDrop {s : State} (h : Inv s) (hne : s.rd ≠ s.wr) : writesBuffered s (ringDrop s) := by
  intro v hv
  rw [buffered_ringDrop h.params h.rdRange h.wrRange hne]
  exact .inl (List.mem_cons_of_mem _ hv)

theorem writesBuffered_ringStore {s : State} (h : Inv s) (hfull : isFull s = false) (b : Byte) :
    writesBuffered s (ringStore b s) := by
  rw [writesBuffered, buffered_ringStore h.params h.rdRange h.wrRange hfull]
  exact List.forall_mem_append.2 ⟨fun _ hv => .inl hv, by simp⟩

/-- An operation buffers only what it writes, unless it raises a ring fault: a put on full, or a get on empty. -/
theorem OpNext.writesBuffered {u t : State} {i : Instr} (h : OpNext u i t) (hu : Inv u) (ht : noRingFault t) :
    writesBuffered u t := by
  obtain ⟨hput, hget⟩ := ht
  cases h with
  | port | perrDirect | perr | status | stat | query | tile | queryBusy | tileBusy | countUndef | originUndef =>
    exact writesBuffered_of_eq rfl
  | count | origin => rcases pairOperand_state _ _ u with e | e <;> rw [e] <;> exact writesBuffered_of_eq rfl
  | put b =>
    cases hfull : isFull u with
    | true => simp [hfull] at hput
    | false => exact writesBuffered_ringStore hu hfull b
  | getEmpty => simp at hget
  | get _ _ hne =>
    intro v hv
    exact writesBuffered_ringDrop hu hne v (buffered_ringDrop_ringHead u ▸ hv)

theorem FramerNext.writesBuffered {s t : State} (h : FramerNext s t) (hs : Inv s) : writesBuffered s t := by
  have hframe := h.framerFrame
  rcases h.cursors with ⟨hcfg, hrd, hwr⟩ | ⟨-, hempty, hcfg, hrd, hwr⟩
  · exact writesBuffered_of_eq (buffered_same hcfg hrd hwr hframe.rbMem)
  · have hne : s.rd ≠ s.wr := by simpa [isEmpty] using hempty
    have heq : buffered t = buffered (ringDrop s) := buffered_same hcfg hrd hwr hframe.rbMem
    intro v hv
    exact writesBuffered_ringDrop hs hne v (heq ▸ hv)

theorem AgentNext.writesBuffered {s t : State} {e : AgentStep} (h : AgentNext s e t) (hs : Inv s)
    (ht : noRingFault t) : writesBuffered s t := by
  cases h with
  | operation a w i t _ hop => exact hop.writesBuffered (u := { s with issuer := a }) (hs.keepsBookkeeping ..) ht
  | framer t hn => exact hn.writesBuffered hs
  | reserved | sendDirect | sendViaRb | sink | drop | answer => exact writesBuffered_of_eq rfl

theorem AgentNext.keepsRingWritten {s t : State} {e : AgentStep} (h : AgentNext s e t) (hs : Inv s)
    (hw : RingWritten s) : RingWritten t := by
  intro hput hget v hv
  obtain ⟨hput', hget'⟩ : noRingFault s := noRingFault_of_sticky (fun _ => h.keepsFault) ⟨hput, hget⟩
  exact (h.writesBuffered hs ⟨hput, hget⟩ v hv).elim (hw hput' hget' v) id

theorem RingWritten.keepsSchedule {s : State} (h : RingWritten s) : RingWritten (nextAgentStep s).2 := by
  unfold nextAgentStep
  split <;> exact h

/-- Settles O52: a step that raises no ring fault buffers only what it writes, and neither fault was raised before it. -/
theorem stepKeepsRingWritten : Obligations.StepKeepsRingWritten := by
  unfold Obligations.StepKeepsRingWritten
  intro s t h hw hs
  exact (agentStep_next (step_next hs).2).keepsRingWritten h.keepsSchedule hw.keepsSchedule

/-! ### Runs of puts and gets (R109) -/

/-- A ring buffer that CONS reads, with cursors in range and every buffered slot written: where a run of R109 starts. -/
structure FifoReady (s : State) : Prop where
  params : s.cfg.ok = true
  path : s.cfg.rxPath = .direct
  rdRange : s.rd ≤ s.cfg.mask
  wrRange : s.wr ≤ s.cfg.mask
  written : ∀ v ∈ buffered s, v.isSome

/-- The words returned to CONS, oldest first: what the gets of a run return. -/
def consWords (s : State) : List Response := s.reslog.filter fun r => decide (r.agent = .cons)

theorem prodPut_fifo {s u : State} {b : Byte} (hs : FifoReady s) (h : prodPut b s = .next u) (hu : noRingFault u) :
    FifoReady u ∧ buffered u = buffered s ++ [some b] ∧ consWords u = consWords s := by
  obtain ⟨fs, rfl, hfs⟩ := exec_rbPut_next (s := { s with issuer := .prod }) rfl h
  have hfull : isFull s = false := by
    obtain ⟨-, hnot⟩ := Bool.or_eq_false_iff.1 ((hfs .rbPutFull).symm.trans hu.1)
    exact Bool.eq_false_iff.2 fun hf => of_decide_eq_false hnot ⟨rfl, hf⟩
  have hbuf : buffered (ringStore b s) = buffered s ++ [some b] :=
    buffered_ringStore hs.params hs.rdRange hs.wrRange hfull b
  have hwritten : ∀ v ∈ buffered (ringStore b s), v.isSome := by
    rw [hbuf]
    exact List.forall_mem_append.2 ⟨hs.written, by simp⟩
  exact ⟨⟨hs.params, hs.path, hs.rdRange, advance_le _ _, hwritten⟩, hbuf, by simp [consWords]⟩

theorem consGet_fifo {s u : State} (hs : FifoReady s) (h : consGet s = .next u) (hu : noRingFault u) :
    FifoReady u ∧ ∃ v : Byte, buffered s = some v :: buffered u ∧
      consWords u = consWords s ++ [⟨.cons, v.zeroExtend 16⟩] := by
  have hne : s.rd ≠ s.wr := by
    have hget := (exec_rbGet_eq_getByte (s := { s with issuer := .cons }) rfl hs.path).symm.trans h
    rcases getByte_next hget with ⟨-, rfl⟩ | ⟨hne, -⟩
    · simp [noRingFault] at hu
    · exact hne
  have hbuf := buffered_ringDrop hs.params hs.rdRange hs.wrRange hne
  obtain ⟨hhead, htail⟩ := List.forall_mem_cons.1 (hbuf ▸ hs.written)
  obtain ⟨v, hv⟩ := Option.isSome_iff_exists.1 hhead
  rw [hv] at hbuf
  rw [consGet, exec_rbGet_written (s := { s with issuer := .cons }) rfl hs.path hs.rdRange hne hv] at h
  cases h
  exact ⟨⟨hs.params, hs.path, advance_le _ _, hs.wrRange, htail⟩, v, hbuf, by simp [consWords]⟩

theorem exec_keepsNoRingFault {i : Instr} {w : OpWord} {u t : State} (hw : encodeWord i = some w)
    (h : exec i u = .next t) (ht : noRingFault t) : noRingFault u :=
  noRingFault_of_sticky (fun _ => (exec_opNext hw h).keepsFault) ht

theorem ringRun_noRingFault {ops : List (Option Byte)} {s t : State} (h : ringRun ops s = .next t)
    (ht : noRingFault t) : noRingFault s := by
  induction ops generalizing s with
  | nil =>
    cases h
    exact ht
  | cons op ops ih =>
    cases op with
    | some b =>
      obtain ⟨u, hput, hrest⟩ := thenRun_eq_next h
      exact exec_keepsNoRingFault (u := { s with issuer := .prod }) (i := .rbPut b) rfl hput (ih hrest)
    | none =>
      obtain ⟨u, hget, hrest⟩ := thenRun_eq_next h
      exact exec_keepsNoRingFault (u := { s with issuer := .cons }) (i := .rbGet) rfl hget (ih hrest)

/-- A run without a ring fault returns to CONS first what was buffered and then what it put, in that order. -/
theorem ringRun_fifo {ops : List (Option Byte)} {s t : State} (hs : FifoReady s) (h : ringRun ops s = .next t)
    (ht : noRingFault t) :
    ∃ got : List Byte, buffered s ++ (ops.filterMap id).map some = got.map some ++ buffered t ∧
      consWords t = consWords s ++ got.map fun v => ⟨.cons, v.zeroExtend 16⟩ := by
  induction ops generalizing s with
  | nil =>
    cases h
    exact ⟨[], by simp, by simp⟩
  | cons op ops ih =>
    cases op with
    | some b =>
      obtain ⟨u, hput, hrest⟩ := thenRun_eq_next h
      obtain ⟨hu, hbuf, hwords⟩ := prodPut_fifo hs hput (ringRun_noRingFault hrest ht)
      obtain ⟨got, hgot, hret⟩ := ih hu hrest
      refine ⟨got, ?_, by rw [hret, hwords]⟩
      simpa [hbuf] using hgot
    | none =>
      obtain ⟨u, hget, hrest⟩ := thenRun_eq_next h
      obtain ⟨hu, v, hbuf, hwords⟩ := consGet_fifo hs hget (ringRun_noRingFault hrest ht)
      obtain ⟨got, hgot, hret⟩ := ih hu hrest
      refine ⟨v :: got, ?_, by simp [hret, hwords]⟩
      simpa [hbuf] using hgot

/-- Settles O27, by induction over the run (`ringRun_fifo`). -/
theorem fifoOverRuns : Obligations.FifoOverRuns := by
  unfold Obligations.FifoOverRuns
  intro ops s t hok hd hr hw hwritten h hput hget
  exact ringRun_fifo ⟨hok, hd, hr, hw, hwritten⟩ h ⟨hput, hget⟩

end Sys2Proof.Machine
end

section
/-! PROOF. What the framer puts on the TX port (R161, R261): each step appends to TXLOG what it appends to the bytes of
the request in flight, and a request ends only when those bytes are the whole of what it may send. -/

namespace Sys2Proof.Machine

/-! ### The bytes of the request in flight -/

theorem requestTx_congr {s t : State} (hcfg : t.cfg = s.cfg) (hfsm : t.fsm = s.fsm) (hidx : t.idx = s.idx) :
    requestTx t = requestTx s := by
  rw [requestTx, requestTx, hcfg, hfsm, hidx]

theorem requestTx_idle {s : State} (h : s.fsm = .idle) : requestTx s = [] := by
  rw [requestTx, h]

/-- A request has sent all it may where it receives and where it waits for the display: no ready byte without a chunk
(R155, R161). -/
theorem finishedTx_requestTx {s : State} (hfits : s.fsm.fits s.cfg s.lastOp)
    (h : s.fsm.receives = true ∨ s.fsm = .rtWait) : FinishedTx s.cfg (requestTx s) := by
  unfold requestTx
  cases hf : s.fsm with
  | qcRx k => exact .inl rfl
  | rtHdr k => exact .inr ⟨_, 0, Nat.zero_le _, (List.append_nil _).symm⟩
  | rtPay m j =>
    rw [hf] at hfits
    obtain ⟨-, hm, -⟩ := hfits
    exact .inr ⟨_, m + 1, hm, rfl⟩
  | rtWait => exact .inr ⟨_, _, le_rfl, rfl⟩
  | _ => simp [hf, Fsm.receives] at h

/-- A sent byte is the next of its request (R154, R155). -/
theorem SendRow.requestTx_eq {s t : State} {i : HWord} {b : Byte} {n : Fsm} (row : SendRow i s.fsm b n)
    (hi : ∀ k, s.fsm = .rtTx k → s.idx = some i) (hn : t.fsm = n) (hidx : t.idx = s.idx) :
    requestTx t = requestTx s ++ [b] := by
  rw [requestTx, requestTx, hn, hidx]
  generalize s.fsm = f at row hi
  cases row with
  | qc0 | qc1 => rfl
  | rt0 | rt1 | rt2 | rt3 => rw [hi _ rfl]; rfl
  | rdy m => simp [List.replicate_succ']

/-- A payload byte moves the framer on, but sends nothing (R155). -/
theorem requestTx_afterPayload {s t : State} {m j : Nat} (hcfg : t.cfg = s.cfg) (hidx : t.idx = s.idx)
    (hs : s.fsm = .rtPay m j) (ht : t.fsm = afterPayload s.cfg m j) (hm : m < s.cfg.nchunk) :
    requestTx t = requestTx s := by
  rw [afterPayload] at ht
  rw [requestTx, requestTx, hs, hcfg, hidx]
  split at ht
  · rw [ht]
  split at ht
  · rw [ht]
  · rw [ht, show s.cfg.nchunk = m + 1 by omega]

/-! ### What keeps the trace -/

/-- The trace goes on with the bytes that the request in flight goes on with. -/
theorem TxTrace.goesOn {s t : State} {d : List Byte} (h : TxTrace s) (hcfg : t.cfg = s.cfg)
    (hlog : t.txlog = s.txlog ++ d) (hreq : requestTx t = requestTx s ++ d) : TxTrace t := by
  obtain ⟨ended, hended, htrace⟩ := h
  exact ⟨ended, hcfg ▸ hended, by rw [hlog, hreq, htrace, List.append_assoc]⟩

/-- A step that sends nothing and does not end the request. -/
theorem TxTrace.stays {s t : State} (h : TxTrace s) (hcfg : t.cfg = s.cfg) (hlog : t.txlog = s.txlog)
    (hreq : requestTx t = requestTx s) : TxTrace t :=
  h.goesOn (d := []) hcfg (by simp [hlog]) (by simp [hreq])

/-- A request that ends joins the ones that ended before. -/
theorem TxTrace.ends {s t : State} (h : TxTrace s) (hcfg : t.cfg = s.cfg) (hlog : t.txlog = s.txlog)
    (hidle : t.fsm = .idle) (hfin : FinishedTx s.cfg (requestTx s)) : TxTrace t := by
  obtain ⟨ended, hended, htrace⟩ := h
  refine ⟨ended ++ [requestTx s], ?_, ?_⟩
  · rw [hcfg]
    exact List.forall_mem_append.2 ⟨hended, by simpa using hfin⟩
  · rw [hlog, htrace, requestTx_idle hidle]
    simp

/-! ### The framer's steps -/

theorem rxTake_byte_sendState {s t : State} {b : Byte} (h : rxTake s = .byte b t) :
    t.txlog = s.txlog ∧ requestTx t = requestTx s := by
  rcases rxTake_byte h with ⟨-, _, -, rfl⟩ | ⟨-, -, -, -, -, rfl⟩
  · exact ⟨rfl, rfl⟩
  · rcases ringHead_state s with e | e <;> rw [e] <;> exact ⟨rfl, rfl⟩

theorem rxTake_linkErr_txlog {s t : State} {k : Option LinkKind} (h : rxTake s = .linkErr k t) :
    t.txlog = s.txlog := by
  rcases rxTake_linkErr h with ⟨-, _, _, -, -, rfl⟩ | ⟨-, -, -, rfl⟩ <;> rfl

theorem RecvRow.keepsTxTrace {t u : State} {b : Byte} (row : RecvRow t b u) (ht : Inv t) (h : TxTrace t) :
    TxTrace u := by
  have hfits := ht.fsmFits
  cases row with
  | qc0 hf => exact h.stays rfl rfl (by simp only [requestTx, hf])
  | qc1 hf => exact h.ends rfl rfl rfl (finishedTx_requestTx hfits (.inl (by rw [hf]; rfl)))
  | hdr0 hf => exact h.stays rfl rfl (by simp only [requestTx, hf])
  | hdr1 hf => exact h.stays rfl rfl (by simp [requestTx, hf])
  | pay m j hf =>
    rw [hf] at hfits
    obtain ⟨-, hm, -⟩ := hfits
    exact h.stays rfl rfl (requestTx_afterPayload rfl rfl hf rfl hm)

/-- The index of a RequestTile in flight is latched, so the frame is the index's (R32, R146). -/
theorem Inv.idx_of_rtTx {s : State} (h : Inv s) {k : Fin 4} (hf : s.fsm = .rtTx k) : ∃ i, s.idx = some i := by
  have hfits := h.fsmFits
  rw [hf] at hfits
  exact Option.isSome_iff_exists.1 (h.indexLatched (by simp [hf]) hfits)

theorem FramerNext.keepsTxTrace {s t : State} (hn : FramerNext s t) (hs : Inv s) (h : TxTrace s) : TxTrace t := by
  have hframe := hn.framerFrame
  cases hn with
  | stay | holdDrawn => exact h
  | sent u i b n hu hi _ row =>
    have hlatched : ∀ k, s.fsm = .rtTx k → s.idx = some i := by
      intro k hk
      obtain ⟨j, hj⟩ := hs.idx_of_rtTx hk
      rw [hj, hi j hj ⟨k, hk⟩]
    exact h.goesOn hframe.cfg rfl (row.requestTx_eq hlatched rfl hframe.idx)
  | aborted k u hrec hx =>
    have hlog : u.txlog = s.txlog := rxTake_linkErr_txlog hx
    exact h.ends hframe.cfg hlog rfl (finishedTx_requestTx hs.fsmFits (.inl hrec))
  | received b u t _ hx row =>
    obtain ⟨hlog, hreq⟩ := rxTake_byte_sendState hx
    exact row.keepsTxTrace (hs.keepsTakenByte hx) (h.stays (framerFrame_rxTake_byte hx).cfg hlog hreq)
  | rendered hf => exact h.stays rfl rfl (by simp [requestTx, hf])
  | finished r l c hf => exact h.ends rfl rfl rfl (finishedTx_requestTx hs.fsmFits (.inr hf))

/-! ### Any agent -/

/-- An operation sends nothing, and a request is accepted only when none is in flight (R152, R153). -/
theorem OpNext.keepsTxTrace {u t : State} {i : Instr} (hn : OpNext u i t) (h : TxTrace u) : TxTrace t := by
  cases hn with
  | port | perrDirect | perr | getEmpty | status | stat | queryBusy | tileBusy | countUndef | originUndef => exact h
  | put => split <;> exact h
  | get => rcases ringHead_state u with e | e <;> rw [e] <;> exact h
  | count | origin => rcases pairOperand_state _ _ u with e | e <;> rw [e] <;> exact h
  | query _ hidle | tile _ _ hidle => exact h.stays rfl rfl (requestTx_idle hidle).symm

theorem AgentNext.keepsTxTrace {s t : State} {e : AgentStep} (hn : AgentNext s e t) (hs : Inv s) (h : TxTrace s) :
    TxTrace t := by
  cases hn with
  | operation a w i t _ hop => exact hop.keepsTxTrace (u := { s with issuer := a }) h
  | framer t hf => exact hf.keepsTxTrace hs h
  | reserved | sendDirect | sendViaRb | sink | drop | answer => exact h

theorem TxTrace.keepsSchedule {s : State} (h : TxTrace s) : TxTrace (nextAgentStep s).2 := by
  unfold nextAgentStep
  split <;> exact h

/-- Settles O51, by cases on what the scheduled agent's step can do; only the framer's matter. -/
theorem stepKeepsTxTrace : Obligations.StepKeepsTxTrace := by
  unfold Obligations.StepKeepsTxTrace
  intro s t hs h hstep
  exact (agentStep_next (step_next hstep).2).keepsTxTrace hs.keepsSchedule h.keepsSchedule

end Sys2Proof.Machine
end

section
/-! PROOF. The control operations for CALLER (R152, R153, R157, R158), the wire patterns' steps (R145 to R148, R154,
R155), the wait for the display (R216), and what the framer's scheduled step runs. -/

namespace Sys2Proof.Machine

/-! ### FR.QC and FR.TILE (R152, R153, R159) -/

/-- CALLER owns the control port (R82). -/
theorem guardPort_control {s : State} (ha : s.issuer = .caller) (body : State → Out) :
    guardPort .control s body = body s :=
  guardPort_owner (by simp [ownsPort, ha])

theorem busy_eq_true {s : State} (h : s.fsm ≠ .idle) : busy s = true := decide_eq_true h

theorem busy_eq_false {s : State} (h : s.fsm = .idle) : busy s = false := by simp [busy, h]

theorem execFrQc_idle {s : State} (ha : s.issuer = .caller) (h : s.fsm = .idle) :
    execFrQc s = .next (answer 0#16 (acceptQueryCount s)) := by
  rw [execFrQc, guardPort_control ha, busy_eq_false h]
  rfl

theorem execFrTile_idle {s : State} (ha : s.issuer = .caller) (h : s.fsm = .idle) (i : HWord) :
    execFrTile i s = .next (answer 0#16 (acceptRequestTile i s)) := by
  rw [execFrTile, guardPort_control ha, busy_eq_false h]
  rfl

theorem execFrQc_busy {s : State} (ha : s.issuer = .caller) (h : s.fsm ≠ .idle) :
    execFrQc s = .next (rejectWord .frBusy s) := by
  rw [execFrQc, guardPort_control ha, busy_eq_true h]
  rfl

theorem execFrTile_busy {s : State} (ha : s.issuer = .caller) (h : s.fsm ≠ .idle) (i : HWord) :
    execFrTile i s = .next (rejectWord .frBusy s) := by
  rw [execFrTile, guardPort_control ha, busy_eq_true h]
  rfl

/-- Settles O29, by whether a request is in flight. -/
theorem queryAccepted : Obligations.QueryAccepted := by
  unfold Obligations.QueryAccepted
  intro s ha
  rw [← ha]
  refine ⟨fun hidle => ?_, execFrQc_busy ha⟩
  exact ⟨_, execFrQc_idle ha hidle, rfl, rfl, rfl, rfl, rfl, BitVec.eq_of_toNat_eq (statWord_toNat _), rfl, rfl, rfl,
    rfl, rfl, rfl, ⟨fun _ => rfl, rfl, rfl, rfl⟩, fun _ => rfl, ⟨rfl, rfl, rfl, rfl⟩, ⟨rfl, rfl, rfl, rfl⟩, rfl⟩

/-- Settles O30, by whether a request is in flight. -/
theorem tileAccepted : Obligations.TileAccepted := by
  unfold Obligations.TileAccepted
  intro s i ha
  rw [← ha]
  refine ⟨fun hidle => ?_, fun hbusy => execFrTile_busy ha hbusy i⟩
  exact ⟨_, execFrTile_idle ha hidle i, rfl, rfl, rfl, rfl, rfl, rfl, BitVec.eq_of_toNat_eq (statWord_toNat _), rfl,
    rfl, rfl, rfl, rfl, ⟨fun _ => rfl, rfl, rfl, rfl⟩, fun _ => rfl, ⟨rfl, rfl, rfl, rfl⟩, ⟨rfl, rfl, rfl, rfl⟩, rfl⟩

/-! ### FR.COUNT and FR.ORIGIN (R157, R158) -/

theorem execFrCount_valid {s : State} (ha : s.issuer = .caller) (h : s.countValid = true) :
    execFrCount s =
      .next (answer (pairOperand s.count.lo s.count.hi s).1 (pairOperand s.count.lo s.count.hi s).2) := by
  rw [execFrCount, guardPort_control ha, if_pos h]

theorem execFrCount_invalid {s : State} (ha : s.issuer = .caller) (h : s.countValid = false) :
    execFrCount s = .next (undefinedRead s) := by
  rw [execFrCount, guardPort_control ha, h]
  rfl

theorem execFrOrigin_valid {s : State} (ha : s.issuer = .caller) (h : s.originValid = true) :
    execFrOrigin s = .next (answer (pairOperand s.ox s.oy s).1 (pairOperand s.ox s.oy s).2) := by
  rw [execFrOrigin, guardPort_control ha, if_pos h]

theorem execFrOrigin_invalid {s : State} (ha : s.issuer = .caller) (h : s.originValid = false) :
    execFrOrigin s = .next (undefinedRead s) := by
  rw [execFrOrigin, guardPort_control ha, h]
  rfl

/-- What a read of a result leaves unchanged: all but the fault set, the result words and the count of draws. -/
theorem ReportsOnly.frame {s t : State} (h : ReportsOnly s t) :
    sameRing s t ∧ sameTile s t ∧ sameRequest s t ∧ sameResults s t ∧ sameLink s t ∧ sameModel s t := by
  obtain ⟨_, _, _, rfl⟩ := h
  exact ⟨⟨fun _ => rfl, rfl, rfl, rfl⟩, fun _ => rfl, ⟨rfl, rfl, rfl, rfl⟩, ⟨rfl, rfl, rfl, rfl, rfl⟩,
    ⟨rfl, rfl, rfl, rfl⟩, ⟨rfl, rfl, rfl, rfl⟩⟩

/-- CALLER's read of a valid result: its two bytes, a missing one drawn, and no fault. -/
theorem pairRead_spec {s : State} (ha : s.issuer = .caller) (lo hi : Option Byte) :
    ∃ t v, answer (pairOperand lo hi s).1 (pairOperand lo hi s).2 = t ∧ ReportsOnly s t ∧
      t.reslog = s.reslog ++ [⟨.caller, v⟩] ∧ t.faults = s.faults ∧
      ∀ l h, lo = some l → hi = some h → v.toNat = l.toNat + 256 * h.toNat ∧ t.draws = s.draws := by
  have hstate := pairOperand_state lo hi s
  refine ⟨_, (pairOperand lo hi s).1, rfl, reportsOnly_answer_drawn hstate, ?_, pairOperand_faults lo hi s, ?_⟩
  · rcases hstate with e | e <;> simp [e, ha]
  · rintro l h rfl rfl
    exact ⟨le16_toNat l h, rfl⟩

/-- CALLER's read of a result that is not valid: F_UNDEF_READ and a draw. -/
theorem undefinedRead_spec {s : State} (ha : s.issuer = .caller) :
    ReportsOnly s (undefinedRead s) ∧ (undefinedRead s).reslog = s.reslog ++ [⟨.caller, Config.draw16 s.draws⟩] :=
  ⟨⟨_, _, _, rfl⟩, by rw [← ha]; rfl⟩

/-- Settles O32, by whether the count is valid. -/
theorem countReads : Obligations.CountReads := by
  unfold Obligations.CountReads
  intro s ha
  cases hv : s.countValid with
  | true =>
    obtain ⟨t, v, ht, hrep, hlog, hfaults, hval⟩ := pairRead_spec ha s.count.lo s.count.hi
    refine ⟨t, v, (execFrCount_valid ha hv).trans (congrArg _ ht), hlog, fun _ => ⟨hfaults, fun l h hc => ?_⟩, nofun,
      hrep.frame⟩
    exact hval l h (by rw [hc]) (by rw [hc])
  | false =>
    obtain ⟨hrep, hlog⟩ := undefinedRead_spec ha
    exact ⟨_, _, execFrCount_invalid ha hv, hlog, nofun, fun _ => ⟨rfl, rfl, rfl⟩, hrep.frame⟩

/-- Settles O33, by whether the origin is valid. -/
theorem originReads : Obligations.OriginReads := by
  unfold Obligations.OriginReads
  intro s ha
  cases hv : s.originValid with
  | true =>
    obtain ⟨t, v, ht, hrep, hlog, hfaults, hval⟩ := pairRead_spec ha s.ox s.oy
    exact ⟨t, v, (execFrOrigin_valid ha hv).trans (congrArg _ ht), hlog, fun _ => ⟨hfaults, hval⟩, nofun, hrep.frame⟩
  | false =>
    obtain ⟨hrep, hlog⟩ := undefinedRead_spec ha
    exact ⟨_, _, execFrOrigin_invalid ha hv, hlog, nofun, fun _ => ⟨rfl, rfl, rfl⟩, hrep.frame⟩

/-! ### Sent patterns (R145, R154, R155) -/

theorem execGetImageCount_sends {s : State} {k : Fin 2} {i : HWord} {b : Byte} {n : Fsm} (hf : s.fsm = .qcTx k)
    (row : SendRow i (.qcTx k) b n) : execGetImageCount s = .next (txSend b n s) := by
  cases row <;> simp only [execGetImageCount, hf]

theorem execReady_sends {s : State} {m : Nat} (hf : s.fsm = .rtRdy m) :
    execReady s = .next (txSend Config.readyByte (.rtPay m 0) s) := by
  simp only [execReady, hf]

/-- The two bytes of GETIMAGECOUNT and where each leads (R145, R154). -/
theorem countRow (k : Fin 2) :
    SendRow 0 (.qcTx k) (if k = 0 then 0xFF#8 else 0x01#8) (if k = 0 then .qcTx 1 else .qcRx 0) := by
  match k with
  | 0 => exact .qc0
  | 1 => exact .qc1

/-- Settles O34: the position's row is sent, and a send with the sink ready writes the log and `fsm` alone. -/
theorem countFrameSent : Obligations.CountFrameSent := by
  unfold Obligations.CountFrameSent
  intro s k hf hready
  refine ⟨_, (execGetImageCount_sends hf (countRow k)).trans (congrArg _ (txSend_ready hready)), rfl, rfl, rfl, rfl,
    rfl, rfl, rfl, rfl, rfl, rfl, ⟨fun _ => rfl, rfl, rfl, rfl⟩, fun _ => rfl, ⟨rfl, rfl, rfl, rfl, rfl⟩,
    ⟨rfl, rfl, rfl, rfl⟩, rfl⟩

/-- Settles O36, as `countFrameSent`. -/
theorem readySent : Obligations.ReadySent := by
  unfold Obligations.ReadySent
  intro s m hf hready
  exact ⟨_, (execReady_sends hf).trans (congrArg _ (txSend_ready hready)), rfl, rfl, rfl, rfl,
    rfl, rfl, rfl, rfl, rfl, rfl, ⟨fun _ => rfl, rfl, rfl, rfl⟩, fun _ => rfl, ⟨rfl, rfl, rfl, rfl, rfl⟩,
    ⟨rfl, rfl, rfl, rfl⟩, rfl⟩

/-! ### Received patterns (R147, R148, R154, R155) -/

theorem execCountResp_lo {s : State} (hf : s.fsm = .qcRx 0) (r0 r1 : Byte) :
    execCountResp r0 r1 s = .next { s with count := ⟨some r0, s.count.hi⟩, fsm := .qcRx 1 } := by
  simp only [execCountResp, hf]

theorem execCountResp_hi {s : State} (hf : s.fsm = .qcRx 1) (r0 r1 : Byte) :
    execCountResp r0 r1 s = .next (finish .ok { s with count := ⟨s.count.lo, some r1⟩ }) := by
  simp only [execCountResp, hf]

theorem execTileHdr_x {s : State} (hf : s.fsm = .rtHdr 0) (x y : Byte) :
    execTileHdr x y s = .next { s with ox := some x, fsm := .rtHdr 1 } := by
  simp only [execTileHdr, hf]

theorem execTileHdr_y {s : State} (hf : s.fsm = .rtHdr 1) (x y : Byte) :
    execTileHdr x y s = .next { s with oy := some y, fsm := .rtRdy 0 } := by
  simp only [execTileHdr, hf]

/-- A QueryCount that finishes with OK sets COUNT_VALID (R150). -/
theorem finish_ok_queryCount {s : State} (h : s.lastOp = .queryCount) :
    finish .ok s = { s with result := .ok, countValid := true, fsm := .idle } := by
  simp [finish, h]

/-- A RequestTile that finishes with OK or DISPLAY_WRITE_ERROR sets ORIGIN_VALID (R150, R220). -/
theorem finish_requestTile {s : State} {r : OpResult} (h : s.lastOp = .requestTile)
    (hr : r = .ok ∨ r = .displayWriteError) :
    finish r s = { s with result := r, originValid := true, fsm := .idle } := by
  simp [finish, h, hr]

/-- Settles O38. -/
theorem countResponseStored : Obligations.CountResponseStored := by
  unfold Obligations.CountResponseStored
  intro s r0 r1
  refine ⟨fun hf => execCountResp_lo hf r0 r1, fun hf hop => ?_⟩
  exact (execCountResp_hi hf r0 r1).trans (congrArg _ (finish_ok_queryCount hop))

/-- Settles O39. -/
theorem headerStored : Obligations.HeaderStored := by
  unfold Obligations.HeaderStored
  intro s x y
  exact ⟨fun hf => execTileHdr_x hf x y, fun hf => execTileHdr_y hf x y⟩

/-! ### The wait for the display (R216, R220) -/

theorem framerStep_rtWait {s : State} (hf : s.fsm = .rtWait) : framerStep s = .next (awaitAnswer s) := by
  simp only [framerStep, hf]

theorem awaitAnswer_last {s : State} {l : List BlockWrite} {b : BlockWrite} (h : s.displog = l ++ [b]) :
    awaitAnswer s =
      match b.answer with
      | .pending => s
      | .ok => finish .ok s
      | .err => finish .displayWriteError s := by
  obtain ⟨x, y, w, hh, px, a⟩ := b
  rw [awaitAnswer, h, List.getLast?_concat]
  cases a <;> rfl

/-- Settles O45, by the answer. -/
theorem waitForDisplay : Obligations.WaitForDisplay := by
  unfold Obligations.WaitForDisplay
  intro s l b hf hop hlog
  rw [framerStep_rtWait hf, awaitAnswer_last hlog]
  refine ⟨fun ha => by rw [ha], fun ha => ?_, fun ha => ?_⟩
  · rw [ha]
    exact congrArg _ (finish_requestTile hop (.inl rfl))
  · rw [ha]
    exact congrArg _ (finish_requestTile hop (.inr rfl))

/-! ### The framer's scheduled step (R142, R143, R151, R154, R155, R216) -/

theorem step_framer {s : State} {rest : List AgentStep} (h : s.cfg.ok = true) (ha : s.agenda = .framer :: rest) :
    step s = framerStep { s with agenda := rest } :=
  step_agenda h ha

/-- Settles O11, by the position. -/
theorem stepRunsSentPattern : Obligations.StepRunsSentPattern := by
  unfold Obligations.StepRunsSentPattern
  intro s rest hok hagenda u
  rw [step_framer hok hagenda]
  refine ⟨fun k hf => ?_, fun k i hf hidx => ?_, fun m hf => ?_, fun hf => ?_, framerStep_rtWait (s := u), fun hf => ?_⟩
  · simp only [framerStep, hf, u]
  · have hidx' : indexOperand u = (i, u) := indexOperand_written hidx
    calc framerStep u
      _ = exec (.getImage (indexOperand u).1) (indexOperand u).2 := by simp only [framerStep, hf, u]
      _ = exec (.getImage i) u := by rw [hidx']
  all_goals simp only [framerStep, hf, u]

theorem framerStep_linkErr {s t : State} {k : Option LinkKind} (hr : s.fsm.receives = true)
    (h : rxTake s = .linkErr k t) : framerStep s = .next (abort t) := by
  simp [framerStep_receives hr, receiveStep, h]

/-- A taken byte is the pattern's that its position names (R88). -/
theorem framerStep_byte_exec {s t : State} {b : Byte} {i : Instr} (hr : s.fsm.receives = true)
    (h : rxTake s = .byte b t) (hi : receivedPattern s.cfg s.fsm b = some i) : framerStep s = exec i t := by
  obtain ⟨hcfg, hfsm⟩ := rxTake_byte_fsm h
  rw [framerStep_receives hr, receiveStep, h]
  simp only [hcfg, hfsm, hi]

theorem receivedPattern_even {c : Params} {m j : Nat} (h : (m * c.chunk + j) % 2 = 0) (b : Byte) :
    receivedPattern c (.rtPay m j) b = some (.payloadPixel b 0#8) := if_pos h

theorem receivedPattern_odd {c : Params} {m j : Nat} (h : (m * c.chunk + j) % 2 ≠ 0) (b : Byte) :
    receivedPattern c (.rtPay m j) b = some (.payloadPixel 0#8 b) := if_neg h

/-- Settles O12: the position's pattern runs with 0 as its other byte, which no pattern reads. -/
theorem stepRunsReceivedPattern : Obligations.StepRunsReceivedPattern := by
  unfold Obligations.StepRunsReceivedPattern
  intro s t rest b other k hok hagenda u
  rw [step_framer hok hagenda]
  refine ⟨fun hx => ?byte, fun hr hx => framerStep_linkErr (s := u) hr hx,
    fun hr hx => framerStep_hold (s := u) hr hx⟩
  obtain ⟨hcfg, hfsm⟩ := rxTake_byte_fsm hx
  have hrun {i : Instr} (f : Fsm) (hf : s.fsm = f) (hr : f.receives = true)
      (hi : receivedPattern s.cfg f b = some i) : framerStep u = exec i t :=
    framerStep_byte_exec (s := u) (hf ▸ hr) hx (hf ▸ hi)
  refine ⟨fun hf => ?_, fun hf => ?_, fun hf => ?_, fun hf => ?_, fun m j hf he => ?_, fun m j hf ho => ?_⟩
  · exact (hrun _ hf rfl rfl).trans (execCountResp_first _ _ _ t (hfsm.trans hf))
  · exact (hrun _ hf rfl rfl).trans (execCountResp_second _ _ _ t (hfsm.trans hf))
  · exact (hrun _ hf rfl rfl).trans (execTileHdr_first _ _ _ t (hfsm.trans hf))
  · exact (hrun _ hf rfl rfl).trans (execTileHdr_second _ _ _ t (hfsm.trans hf))
  · exact (hrun _ hf rfl (receivedPattern_even he b)).trans
      (execPayloadPixel_even _ _ _ t m j (hfsm.trans hf) (hcfg ▸ he))
  · have hne : (m * s.cfg.chunk + j) % 2 ≠ 0 := by omega
    exact (hrun _ hf rfl (receivedPattern_odd hne b)).trans
      (execPayloadPixel_odd _ _ _ t m j (hfsm.trans hf) (hcfg ▸ hne))

end Sys2Proof.Machine
end

section
/-! PROOF. One receive of the framer (R142 to R144, R151): what it takes from RXQ or from the ring buffer, that it stores
a byte where its position says and goes on, and that a link error ends the request. -/

namespace Sys2Proof.Machine

/-! ### Where a receive reads -/

/-- `t` has the parameters, the sink's readiness, the result words and all that a receive reads from as they are in `s`.
The framer changes these only by taking a token. -/
structure SameSource (s t : State) : Prop where
  cfg : t.cfg = s.cfg
  txReady : t.txReady = s.txReady
  rbMem : t.rbMem = s.rbMem
  rd : t.rd = s.rd
  wr : t.wr = s.wr
  linkErr : t.linkErr = s.linkErr
  rxq : t.rxq = s.rxq
  reslog : t.reslog = s.reslog

theorem RecvRow.sameSource {t u : State} {b : Byte} (h : RecvRow t b u) : SameSource t u := by
  cases h <;> exact ⟨rfl, rfl, rfl, rfl, rfl, rfl, rfl, rfl⟩

theorem rxTake_direct_byte {s : State} {b : Byte} {q : List Token} (hd : s.cfg.rxPath = .direct)
    (h : s.rxq = .byte b :: q) : rxTake s = .byte b { s with rxq := q } := by
  simp [rxTake, hd, rxTakeDirect, h]

theorem rxTake_direct_linkErr {s : State} {k : LinkKind} {q : List Token} (hd : s.cfg.rxPath = .direct)
    (h : s.rxq = .linkErr k :: q) : rxTake s = .linkErr (some k) { s with rxq := q } := by
  simp [rxTake, hd, rxTakeDirect, h]

theorem rxTake_viaRb_linkErr {s : State} (hv : s.cfg.rxPath = .viaRb) (h : s.linkErr = true) :
    rxTake s = .linkErr none { s with linkErr := false } := by
  simp [rxTake, hv, rxTakeViaRb, h]

theorem rxTake_viaRb_byte {s : State} (hv : s.cfg.rxPath = .viaRb) (he : s.linkErr = false) (hne : s.rd ≠ s.wr)
    (hr : s.rd ≤ s.cfg.mask) : rxTake s = .byte (ringHead s).1 (ringDrop (ringHead s).2) := by
  simp [rxTake, hv, rxTakeViaRb, he, hne, hr]

/-- Where nothing was written the byte is a draw (R10, log entry 6). -/
theorem ringHead_unwritten {s : State} (h : s.rbMem.read s.rd.toNat = none) :
    ringHead s = (Config.draw8 s.draws 0, countDraw s) := by
  rw [ringHead, h]

/-! ### A received byte -/

theorem RecvRow.fsm_ne {t u : State} {b : Byte} (h : RecvRow t b u) : u.fsm ≠ t.fsm := by
  cases h with
  | pay m j hf =>
    rw [hf]
    show afterPayload t.cfg m j ≠ .rtPay m j
    unfold afterPayload
    split
    · simp
    · split <;> nofun
  | qc0 hf | qc1 hf | hdr0 hf | hdr1 hf => simp [hf]

theorem RecvRow.result_eq {t u : State} {b : Byte} (h : RecvRow t b u) : u.result = t.result ∨ u.result = .ok := by
  cases h with
  | qc1 => exact .inr rfl
  | _ => exact .inl rfl

theorem Fsm.receives_ne_idle {f : Fsm} (h : f.receives = true) : f ≠ .idle := by
  rintro rfl
  simp [Fsm.receives] at h

/-- Under the invariant every position of the payload is in TB, so a received byte is stored. -/
theorem framerStep_byte {s t : State} {b : Byte} (h : Inv s) (hr : s.fsm.receives = true)
    (hx : rxTake s = .byte b t) : ∃ u, framerStep s = .next u ∧ RecvRow t b u := by
  rw [framerStep_receives hr]
  rcases receiveStep_byte hr hx with hrow | ⟨m, j, hf, hp, -⟩
  · exact hrow
  · have hfits := h.fsmFits
    rw [hf] at hfits
    obtain ⟨-, hm, hj⟩ := hfits
    exact absurd (payload_offset_lt h.params hm hj) hp

/-- A byte that is taken stands where its position says, the framer has gone on, and no request was aborted. -/
theorem framerStep_byte_spec {s t : State} {b : Byte} (h : Inv s) (hr : s.fsm.receives = true)
    (hx : rxTake s = .byte b t) :
    ∃ u, framerStep s = .next u ∧ SameSource t u ∧ storedAt s.fsm u = some b ∧ u.draws = t.draws ∧
      u.fsm ≠ s.fsm ∧ u.result ≠ .transferAborted ∧ u.faults = s.faults := by
  obtain ⟨u, hu, row⟩ := framerStep_byte h hr hx
  obtain ⟨-, hfsm⟩ := rxTake_byte_fsm hx
  obtain ⟨hstored, hdraws⟩ := row.stored
  obtain ⟨hnone, -, -⟩ := (h.keepsTakenByte hx).busyClear (hfsm ▸ Fsm.receives_ne_idle hr)
  refine ⟨u, hu, row.sameSource, hfsm ▸ hstored, hdraws, hfsm ▸ row.fsm_ne, ?_, (framerStep_next hu).faults_eq⟩
  rcases row.result_eq with e | e <;> simp [e, hnone]

/-- Settles O41, by the head of RXQ. -/
theorem receiveDirect : Obligations.ReceiveDirect := by
  unfold Obligations.ReceiveDirect
  intro s h hd hr
  refine ⟨fun hq => framerStep_hold hr (rxTake_hold_direct hd hq), fun b q hq => ?byte, fun k q hq => ?linkErr⟩
  case byte =>
    obtain ⟨u, hu, hsrc, hstored, -, hfsm, hres, -⟩ := framerStep_byte_spec h hr (rxTake_direct_byte hd hq)
    exact ⟨u, hu, hsrc.rxq, hstored, hfsm, hres⟩
  case linkErr => exact ⟨_, framerStep_linkErr hr (rxTake_direct_linkErr hd hq), rfl, rfl, rfl⟩

/-- Settles O42: a pending link error, then the byte at `rd`, written or not. -/
theorem receiveViaRb : Obligations.ReceiveViaRb := by
  unfold Obligations.ReceiveViaRb
  intro s h hv hr
  refine ⟨fun he => ?linkErr, fun he heq => framerStep_hold hr (rxTake_hold_viaRb hv he heq), fun he hne => ?byte⟩
  case linkErr =>
    exact ⟨_, framerStep_linkErr hr (rxTake_viaRb_linkErr hv he), rfl, rfl, rfl, rfl, rfl, rfl, rfl⟩
  case byte =>
    have hx := rxTake_viaRb_byte hv he hne h.rdRange
    obtain ⟨u, hu, hsrc, hstored, hdraws, hfsm, hres, hfaults⟩ := framerStep_byte_spec h hr hx
    have hhead : SameSource (ringDrop s) (ringDrop (ringHead s).2) := by
      rcases ringHead_state s with e | e <;> rw [e] <;> exact ⟨rfl, rfl, rfl, rfl, rfl, rfl, rfl, rfl⟩
    refine ⟨u, hu, hsrc.linkErr.trans (hhead.linkErr.trans he), hsrc.rd.trans hhead.rd, hsrc.wr.trans hhead.wr,
      hsrc.rbMem.trans hhead.rbMem, fun v hread => ?_, fun hread => ?_, hfsm, hres, hfaults⟩
    · rw [hstored, hdraws, ringHead_written hread]
      exact ⟨rfl, rfl⟩
    · rw [hstored, hdraws, ringHead_unwritten hread]
      exact ⟨rfl, rfl⟩

/-! ### A link error (R144, R151, R247) -/

/-- On either path the link error is taken and nothing else: RXQ is empty when VIA_RB, and no link error pends when
DIRECT (R25, R39). -/
theorem Inv.takesLinkErr {s : State} (h : Inv s)
    (hsrc : (s.cfg.rxPath = .direct ∧ ∃ kind rest, s.rxq = .linkErr kind :: rest) ∨
      (s.cfg.rxPath = .viaRb ∧ s.linkErr = true)) :
    ∃ k, rxTake s = .linkErr k { s with rxq := s.rxq.tail, linkErr := false } := by
  rcases hsrc with ⟨hd, k, q, hq⟩ | ⟨hv, he⟩
  · refine ⟨some k, ?_⟩
    rw [rxTake_direct_linkErr hd hq, ← h.linkErrPath hd, hq]
    rfl
  · refine ⟨none, ?_⟩
    rw [rxTake_viaRb_linkErr hv he, h.rxqPath hv, List.tail_nil, ← h.rxqPath hv]

/-- Settles O43: the link error is taken, and what is left is `abort`. -/
theorem linkErrorAborts : Obligations.LinkErrorAborts := by
  unfold Obligations.LinkErrorAborts
  intro s h hr hsrc
  obtain ⟨k, hx⟩ := h.takesLinkErr hsrc
  obtain ⟨-, hcv, hov⟩ := h.busyClear (Fsm.receives_ne_idle hr)
  refine ⟨_, framerStep_linkErr hr hx, rfl, rfl, by simp [hcv], by simp [hov], rfl, rfl, fun hop => ?query,
    fun hop => ?tile, rfl, rfl, rfl, rfl, fun _ => rfl, rfl, rfl, rfl, rfl, rfl, ⟨rfl, rfl, rfl, rfl⟩, rfl⟩
  case query => simp [hop, sameTile]
  case tile => simp [hop]

end Sys2Proof.Machine
end

section
/-! PROOF. Runs of a request whose bytes all arrive (R142, R143, R154, R155), for both paths at once. A `Supply` is a
source that gives the framer its bytes one after the other: RXQ when DIRECT; the ring buffer, with PROD relaying, when
VIA_RB. `Supply.Reaches` follows a request through one, as the rows of `SendRow` and `RecvRow` say. -/

namespace Sys2Proof.Machine

/-! ### States that differ in the source alone -/

/-- `t` is `s` but for what PROD's operations and the taking of a token change: the ring buffer, RXQ, the result words
and the issuing agent. -/
def SourceMoved (s t : State) : Prop :=
  ∃ m r w e q p a, t = { s with rbMem := m, rd := r, wr := w, linkErr := e, rxq := q, reslog := p, issuer := a }

theorem SourceMoved.refl (s : State) : SourceMoved s s := ⟨_, _, _, _, _, _, _, rfl⟩

theorem SourceMoved.trans {s t u : State} (h : SourceMoved s t) (k : SourceMoved t u) : SourceMoved s u := by
  obtain ⟨_, _, _, _, _, _, _, rfl⟩ := h
  obtain ⟨_, _, _, _, _, _, _, rfl⟩ := k
  exact ⟨_, _, _, _, _, _, _, rfl⟩

theorem SourceMoved.cfg {s t : State} (h : SourceMoved s t) : t.cfg = s.cfg := by
  obtain ⟨_, _, _, _, _, _, _, rfl⟩ := h
  rfl

theorem SourceMoved.fsm {s t : State} (h : SourceMoved s t) : t.fsm = s.fsm := by
  obtain ⟨_, _, _, _, _, _, _, rfl⟩ := h
  rfl

theorem SourceMoved.idx {s t : State} (h : SourceMoved s t) : t.idx = s.idx := by
  obtain ⟨_, _, _, _, _, _, _, rfl⟩ := h
  rfl

theorem SourceMoved.sent {s t : State} (h : SourceMoved s t) (b : Byte) (n : Fsm) :
    SourceMoved { s with txlog := s.txlog ++ [b], fsm := n } { t with txlog := t.txlog ++ [b], fsm := n } := by
  obtain ⟨_, _, _, _, _, _, _, rfl⟩ := h
  exact ⟨_, _, _, _, _, _, _, rfl⟩

theorem SourceMoved.rendered {s t : State} (h : SourceMoved s t) : SourceMoved (renderStep s) (renderStep t) := by
  obtain ⟨_, _, _, _, _, _, _, rfl⟩ := h
  exact ⟨_, _, _, _, _, _, _, rfl⟩

/-- What a received byte does is the same whatever the source holds. -/
theorem SourceMoved.recvRow {s t u : State} {b : Byte} (h : SourceMoved s t) (row : RecvRow s b u) :
    ∃ v, RecvRow t b v ∧ SourceMoved u v := by
  obtain ⟨_, _, _, _, _, _, _, rfl⟩ := h
  cases row with
  | qc0 hf => exact ⟨_, .qc0 hf, _, _, _, _, _, _, _, rfl⟩
  | qc1 hf => exact ⟨_, .qc1 hf, _, _, _, _, _, _, _, rfl⟩
  | hdr0 hf => exact ⟨_, .hdr0 hf, _, _, _, _, _, _, _, rfl⟩
  | hdr1 hf => exact ⟨_, .hdr1 hf, _, _, _, _, _, _, _, rfl⟩
  | pay m j hf hp => exact ⟨_, .pay m j hf hp, _, _, _, _, _, _, _, rfl⟩

/-! ### Single steps of the framer -/

theorem framerStep_row {s t u : State} {b : Byte} (hr : s.fsm.receives = true) (hx : rxTake s = .byte b t)
    (row : RecvRow t b u) : framerStep s = .next u := by
  obtain ⟨hcfg, hfsm⟩ := rxTake_byte_fsm hx
  have hrun (i : Instr) (hi : receivedPattern t.cfg t.fsm b = some i) : framerStep s = exec i t :=
    framerStep_byte_exec hr hx (by rw [← hcfg, ← hfsm, hi])
  cases row with
  | qc0 hf => exact (hrun (.countResp b 0) (by rw [hf]; rfl)).trans (execCountResp_lo hf b 0)
  | qc1 hf => exact (hrun (.countResp 0 b) (by rw [hf]; rfl)).trans (execCountResp_hi hf 0 b)
  | hdr0 hf => exact (hrun (.tileHdr b 0) (by rw [hf]; rfl)).trans (execTileHdr_x hf b 0)
  | hdr1 hf => exact (hrun (.tileHdr 0 b) (by rw [hf]; rfl)).trans (execTileHdr_y hf 0 b)
  | pay m j hf hp =>
    by_cases he : (m * t.cfg.chunk + j) % 2 = 0
    · rw [hrun _ (by rw [hf]; exact receivedPattern_even he b), exec, execPayloadPixel_stores hf hp, if_pos he]
    · rw [hrun _ (by rw [hf]; exact receivedPattern_odd he b), exec, execPayloadPixel_stores hf hp, if_neg he]

theorem framerStep_send {s : State} {i : HWord} {b : Byte} {n : Fsm} (hready : s.txReady = true)
    (row : SendRow i s.fsm b n) (hi : ∀ k, s.fsm = .rtTx k → s.idx = some i) :
    framerStep s = .next { s with txlog := s.txlog ++ [b], fsm := n } := by
  rw [← txSend_ready hready]
  cases hf : s.fsm with
  | qcTx k =>
    rw [hf] at row
    simp only [framerStep, hf, exec, execGetImageCount_sends hf row]
  | rtTx k =>
    rw [hf] at row
    simp only [framerStep, hf, exec, indexOperand_written (hi k hf), execGetImage_sends hf row]
  | rtRdy m =>
    rw [hf] at row
    cases row
    simp only [framerStep, hf, exec, execReady_sends hf]
  | _ => rw [hf] at row; cases row

theorem SendRow.not_receives {i : HWord} {f n : Fsm} {b : Byte} (row : SendRow i f b n) : f.receives = false := by
  cases row <;> rfl

/-! ### Runs -/

/-- A run of the framer alone is one in which nothing is relayed. -/
theorem framerRun_eq_relayRun (n : Nat) (s : State) : framerRun n s = relayRun n [] s := by
  induction n generalizing s with
  | zero => rfl
  | succ n ih => rw [framerRun, relayRun, funext ih]

/-- `k` steps lead from `s`, with the bytes `feed` to relay, to `t` with `feed'`, whatever comes after them. -/
def RunsTo (k : Nat) (feed : List Byte) (s : State) (feed' : List Byte) (t : State) : Prop :=
  ∀ n, relayRun (n + k) feed s = relayRun n feed' t

theorem RunsTo.trans {k l : Nat} {feed feed' feed'' : List Byte} {s t u : State} (h : RunsTo k feed s feed' t)
    (h' : RunsTo l feed' t feed'' u) : RunsTo (k + l) feed s feed'' u := by
  intro n
  rw [Nat.add_comm k l, ← Nat.add_assoc, h, h']

/-- At the end of the run the state is reached. -/
theorem RunsTo.relayRun_eq {k : Nat} {feed feed' : List Byte} {s t : State} (h : RunsTo k feed s feed' t) :
    relayRun k feed s = .next t := by
  have h0 := h 0
  rwa [Nat.zero_add, relayRun] at h0

/-- PROD relays nothing before a framer step that is no receive on an empty ring buffer. -/
theorem runsTo_framerStep {feed : List Byte} {s t : State} (hr : (s.fsm.receives && isEmpty s) = false)
    (h : framerStep s = .next t) : RunsTo 1 feed s feed t := by
  intro n
  rw [relayRun_framer hr, h, thenRun_next]

theorem runsTo_relayed {b : Byte} {feed : List Byte} {s t u : State} (hr : (s.fsm.receives && isEmpty s) = true)
    (hput : prodPut b s = .next t) (h : framerStep t = .next u) : RunsTo 1 (b :: feed) s feed u := by
  intro n
  rw [relayRun_put hr, hput, thenRun_next, h, thenRun_next]

/-! ### Sources -/

/-- A source of received bytes, with the TX sink ready: `gives s feed bs` says that from `s`, with the bytes `feed` still
to relay, the framer receives the bytes `bs`. -/
structure Supply where
  gives : State → List Byte → List Byte → Prop
  /-- The TX sink is ready (R141). -/
  sink : ∀ {s feed bs}, gives s feed bs → s.txReady = true
  /-- Nothing but the source matters. -/
  keeps : ∀ {s t feed bs}, SameSource s t → gives s feed bs → gives t feed bs
  /-- A receive takes the next byte. -/
  takes : ∀ {s feed b bs}, gives s feed (b :: bs) → s.fsm.receives = true →
    ∃ t feed', SourceMoved s t ∧ gives t feed' bs ∧ ∀ u, RecvRow t b u → RunsTo 1 feed s feed' u

/-- RXQ holds the bytes `bs` and then `rest`; the ring buffer and the result words are as in `s₀` (R142). -/
structure DirectGives (s₀ : State) (rest : List Token) (s : State) (feed bs : List Byte) : Prop where
  path : s.cfg.rxPath = .direct
  sink : s.txReady = true
  queued : s.rxq = bs.map Token.byte ++ rest
  fed : feed = []
  rbMem : s.rbMem = s₀.rbMem
  rd : s.rd = s₀.rd
  wr : s.wr = s₀.wr
  linkErr : s.linkErr = s₀.linkErr
  reslog : s.reslog = s₀.reslog

/-- RXQ as a source. -/
def directSupply (s₀ : State) (rest : List Token) : Supply where
  gives := DirectGives s₀ rest
  sink h := h.sink
  keeps hsrc h :=
    { path := by rw [hsrc.cfg, h.path]
      sink := hsrc.txReady.trans h.sink
      queued := hsrc.rxq.trans h.queued
      fed := h.fed
      rbMem := hsrc.rbMem.trans h.rbMem
      rd := hsrc.rd.trans h.rd
      wr := hsrc.wr.trans h.wr
      linkErr := hsrc.linkErr.trans h.linkErr
      reslog := hsrc.reslog.trans h.reslog }
  takes {s feed b bs} h hr := by
    obtain rfl := h.fed
    refine ⟨{ s with rxq := bs.map Token.byte ++ rest }, [], ⟨_, _, _, _, _, _, _, rfl⟩, { h with queued := rfl },
      fun u row n => ?_⟩
    rw [relayRun, framerStep_row hr (rxTake_direct_byte h.path h.queued) row, thenRun_next]

theorem Relays.keepsSource {s t : State} {held feed bs rest : List Byte} (hsrc : SameSource s t)
    (h : Relays s held feed bs rest) : Relays t held feed bs rest where
  params := by rw [hsrc.cfg, h.params]
  path := by rw [hsrc.cfg, h.path]
  sink := hsrc.txReady.trans h.sink
  noError := hsrc.linkErr.trans h.noError
  rdRange := by rw [hsrc.cfg, hsrc.rd]; exact h.rdRange
  wrRange := by rw [hsrc.cfg, hsrc.wr]; exact h.wrRange
  holds := (buffered_same hsrc.cfg hsrc.rd hsrc.wr hsrc.rbMem).trans h.holds
  gives := h.gives
  exact := h.exact

/-- The ring buffer is empty exactly when no byte is held. -/
theorem Relays.isEmpty_iff {s : State} {held feed bs rest : List Byte} (h : Relays s held feed bs rest) :
    isEmpty s = true ↔ held = [] := by
  rw [isEmpty_iff_ringCount h.params h.rdRange h.wrRange, ← length_buffered, h.holds, List.length_map,
    List.length_eq_zero_iff]

/-- A byte that is held is the oldest buffered one, and the framer takes it. -/
theorem Relays.takesHeld {s : State} {b b' : Byte} {held feed bs rest : List Byte}
    (h : Relays s (b' :: held) feed (b :: bs) rest) :
    isEmpty s = false ∧ rxTake s = .byte b (ringDrop s) ∧ Relays (ringDrop s) held feed bs rest := by
  obtain ⟨rfl, hgives⟩ : b' = b ∧ held ++ feed = bs ++ rest := by simpa using h.gives
  have hempty : isEmpty s = false := Bool.eq_false_iff.2 fun he => by simpa using h.isEmpty_iff.1 he
  have hne : s.rd ≠ s.wr := by simpa [isEmpty] using hempty
  obtain ⟨hread, hrest⟩ : s.rbMem.read s.rd.toNat = some b' ∧ buffered (ringDrop s) = held.map some := by
    simpa [buffered_ringDrop h.params h.rdRange h.wrRange hne] using h.holds
  refine ⟨hempty, ?_, ?_⟩
  · rw [rxTake_viaRb_byte h.path h.noError hne h.rdRange, ringHead_written hread]
  · exact { h with rdRange := advance_le _ _, holds := hrest, gives := hgives }

/-- On an empty ring buffer PROD relays the next byte, which is then held. -/
theorem Relays.relaysNext {s : State} {b : Byte} {feed bs rest : List Byte} (h : Relays s [] feed (b :: bs) rest) :
    ∃ feed', feed = b :: feed' ∧ isEmpty s = true ∧
      prodPut b s = .next (answer 0#16 (ringStore b { s with issuer := .prod })) ∧
      Relays (answer 0#16 (ringStore b { s with issuer := .prod })) [b] feed' (b :: bs) rest := by
  have hempty : isEmpty s = true := h.isEmpty_iff.2 rfl
  have hfull : isFull s = false := by
    have hcount := (isEmpty_iff_ringCount h.params h.rdRange h.wrRange).1 hempty
    have hdepth := (depth_bounds h.params).1
    rw [Bool.eq_false_iff, ne_eq, isFull_iff_ringCount h.params h.rdRange h.wrRange, hcount]
    omega
  have hgives : feed = b :: bs ++ rest := h.gives
  have hrest : rest = [] := h.exact.resolve_right (by simp [hgives])
  subst hrest
  refine ⟨bs, by simpa using hgives, hempty, prodPut_next b h.wrRange hfull, ?_⟩
  have hbuf : buffered (ringStore b s) = [some b] := by
    rw [buffered_ringStore h.params h.rdRange h.wrRange hfull, h.holds]
    rfl
  exact { h with wrRange := advance_le _ _, holds := hbuf, gives := by simp, exact := .inl rfl }

/-- The ring buffer and PROD give `bs` and leave `rest`; RXQ is as in `s₀`, and PROD's puts of `fed` are answered but for
those of `feed` (R143). -/
structure RingGives (s₀ : State) (fed rest : List Byte) (s : State) (feed bs : List Byte) : Prop where
  relays : ∃ held, Relays s held feed bs rest
  rxq : s.rxq = s₀.rxq
  returned : s.reslog ++ List.replicate feed.length ⟨.prod, 0#16⟩ =
    s₀.reslog ++ List.replicate fed.length ⟨.prod, 0#16⟩

theorem RingGives.takes {s₀ s : State} {fed rest feed bs : List Byte} {b : Byte}
    (h : RingGives s₀ fed rest s feed (b :: bs)) (hr : s.fsm.receives = true) :
    ∃ t feed', SourceMoved s t ∧ RingGives s₀ fed rest t feed' bs ∧ ∀ u, RecvRow t b u → RunsTo 1 feed s feed' u := by
  obtain ⟨held, hrel⟩ := h.relays
  cases held with
  | cons b' held =>
    obtain ⟨hempty, hx, hrel'⟩ := hrel.takesHeld
    exact ⟨_, feed, ⟨_, _, _, _, _, _, _, rfl⟩, ⟨⟨held, hrel'⟩, h.rxq, h.returned⟩,
      fun u row => runsTo_framerStep (by simp [hempty]) (framerStep_row hr hx row)⟩
  | nil =>
    obtain ⟨feed, rfl, hempty, hput, hrel'⟩ := hrel.relaysNext
    obtain ⟨-, hx, hrel''⟩ := hrel'.takesHeld
    refine ⟨_, feed, ⟨_, _, _, _, _, _, _, rfl⟩, ⟨⟨[], hrel''⟩, h.rxq, ?_⟩,
      fun u row => runsTo_relayed (by simp [hr, hempty]) hput (framerStep_row hr hx row)⟩
    simpa [List.replicate_succ] using h.returned

/-- The ring buffer, with PROD relaying, as a source. -/
def ringSupply (s₀ : State) (fed rest : List Byte) : Supply where
  gives := RingGives s₀ fed rest
  sink h := by
    obtain ⟨_, hrel⟩ := h.relays
    exact hrel.sink
  keeps hsrc h := by
    obtain ⟨held, hrel⟩ := h.relays
    exact ⟨⟨held, hrel.keepsSource hsrc⟩, hsrc.rxq.trans h.rxq, hsrc.reslog ▸ h.returned⟩
  takes h hr := h.takes hr

/-- Once the response has been taken nothing is left to relay, and what follows it is still buffered. -/
theorem RingGives.atEnd {s₀ s : State} {fed rest feed : List Byte} (h : RingGives s₀ fed rest s feed []) :
    Relays s rest [] [] rest ∧ s.reslog = s₀.reslog ++ List.replicate fed.length ⟨.prod, 0#16⟩ := by
  obtain ⟨held, hrel⟩ := h.relays
  have hgives : held ++ feed = rest := hrel.gives
  have hfeed : feed = [] := hrel.exact.elim (fun hrest => (List.append_eq_nil_iff.1 (hgives.trans hrest)).2) id
  subst hfeed
  rw [List.append_nil] at hgives
  exact ⟨hgives ▸ hrel, by simpa using h.returned⟩

theorem Relays.keeps {s : State} {held feed bs rest : List Byte} (h : Relays s held feed bs rest) : keeps s held :=
  ⟨h.rdRange, h.wrRange, h.holds, h.noError⟩

/-! ### Following a request -/

/-- After `k` steps the request has come to the state `a`, but for the source, which gives `bs` from there on. -/
def Supply.Reaches (σ : Supply) (k : Nat) (feed : List Byte) (s : State) (bs : List Byte) (a : State) : Prop :=
  ∃ feed' t, RunsTo k feed s feed' t ∧ σ.gives t feed' bs ∧ SourceMoved a t

variable {σ : Supply} {k : Nat} {feed bs : List Byte} {s a u : State} {b : Byte}

theorem Supply.Reaches.start (h : σ.gives s feed bs) : σ.Reaches 0 feed s bs s :=
  ⟨feed, s, fun _ => rfl, h, .refl s⟩

theorem Supply.Reaches.send (h : σ.Reaches k feed s bs a) {i : HWord} {n : Fsm} (row : SendRow i a.fsm b n)
    (hi : ∀ j, a.fsm = .rtTx j → a.idx = some i) :
    σ.Reaches (k + 1) feed s bs { a with txlog := a.txlog ++ [b], fsm := n } := by
  obtain ⟨feed', t, hrun, hg, hmoved⟩ := h
  rw [← hmoved.fsm] at row hi
  rw [← hmoved.idx] at hi
  have hstep := framerStep_send (σ.sink hg) row hi
  exact ⟨feed', _, hrun.trans (runsTo_framerStep (by simp [row.not_receives]) hstep),
    σ.keeps (s := t) ⟨rfl, rfl, rfl, rfl, rfl, rfl, rfl, rfl⟩ hg, hmoved.sent b n⟩

theorem Supply.Reaches.take (h : σ.Reaches k feed s (b :: bs) a) (hr : a.fsm.receives = true)
    (row : RecvRow a b u) : σ.Reaches (k + 1) feed s bs u := by
  obtain ⟨feed', t, hrun, hg, hmoved⟩ := h
  obtain ⟨v, feed'', hmoved', hg', hrow⟩ := σ.takes hg (hmoved.fsm ▸ hr)
  obtain ⟨w, row', hu⟩ := (hmoved.trans hmoved').recvRow row
  exact ⟨feed'', w, hrun.trans (hrow w row'), σ.keeps row'.sameSource hg', hu⟩

theorem Supply.Reaches.render (h : σ.Reaches k feed s bs a) (hf : a.fsm = .rtDisp) :
    σ.Reaches (k + 1) feed s bs (renderStep a) := by
  obtain ⟨feed', t, hrun, hg, hmoved⟩ := h
  have hft : t.fsm = .rtDisp := hmoved.fsm.trans hf
  have hstep : framerStep t = .next (renderStep t) := by simp only [framerStep, hft]
  exact ⟨feed', _, hrun.trans (runsTo_framerStep (by simp [hft, Fsm.receives]) hstep),
    σ.keeps (s := t) ⟨rfl, rfl, rfl, rfl, rfl, rfl, rfl, rfl⟩ hg, hmoved.rendered⟩

end Sys2Proof.Machine
end

section
/-! PROOF. Whole requests, on either path (R145 to R151, R154, R155, R161, R216): a QueryCount, a RequestTile whose
response arrives, and one that meets a link error in its payload. -/

namespace Sys2Proof.Machine

/-! ### How a source starts -/

theorem sameSource_acceptQueryCount (s : State) : SameSource s (acceptQueryCount s) :=
  ⟨rfl, rfl, rfl, rfl, rfl, rfl, rfl, rfl⟩

theorem sameSource_acceptRequestTile (i : HWord) (s : State) : SameSource s (acceptRequestTile i s) :=
  ⟨rfl, rfl, rfl, rfl, rfl, rfl, rfl, rfl⟩

theorem directSupply_gives {s t : State} {bs : List Byte} {rest : List Token} (hsrc : SameSource s t)
    (hd : s.cfg.rxPath = .direct) (hready : s.txReady = true) (hq : s.rxq = bs.map Token.byte ++ rest) :
    (directSupply s rest).gives t [] bs :=
  (directSupply s rest).keeps hsrc ⟨hd, hready, hq, rfl, rfl, rfl, rfl, rfl, rfl⟩

theorem ringSupply_gives {s t : State} {held feed bs rest : List Byte} (hsrc : SameSource s t)
    (h : Relays s held feed bs rest) : (ringSupply s feed rest).gives t feed bs :=
  (ringSupply s feed rest).keeps hsrc ⟨⟨held, h⟩, rfl, rfl⟩

theorem DirectGives.sameRing {s₀ s : State} {rest : List Token} {feed bs : List Byte}
    (h : DirectGives s₀ rest s feed bs) : sameRing s₀ s :=
  ⟨fun _ => by rw [h.rbMem], h.rd, h.wr, h.linkErr⟩

/-! ### QueryCount (R145, R147, R154) -/

/-- A QueryCount that started in `s` and received `r0` and `r1`, at its end. -/
def countTransferred (s : State) (r0 r1 : Byte) : State :=
  { acceptQueryCount s with
    txlog := s.txlog ++ [0xFF#8] ++ [0x01#8]
    count := ⟨some r0, some r1⟩
    result := .ok
    countValid := true
    fsm := .idle }

theorem reaches_countTransferred {σ : Supply} {s : State} {feed : List Byte} {r0 r1 : Byte}
    (h : σ.gives (acceptQueryCount s) feed [r0, r1]) :
    σ.Reaches 4 feed (acceptQueryCount s) [] (countTransferred s r0 r1) :=
  ((((Supply.Reaches.start h).send (i := 0) .qc0 nofun).send (i := 0) .qc1 nofun).take rfl (.qc0 rfl)).take rfl
    (.qc1 rfl)

theorem countArrived_of_transferred {s t : State} {r0 r1 : Byte} (h : SourceMoved (countTransferred s r0 r1) t) :
    countArrived r0 r1 s t := by
  obtain ⟨_, _, _, _, _, _, _, rfl⟩ := h
  refine ⟨rfl, rfl, rfl, ?_, le16 r0 r1, le16_toNat r0 r1, execFrCount_valid rfl rfl⟩
  rintro ⟨⟨-, hagenda, hshown⟩, hfaults⟩
  exact ⟨⟨rfl, hagenda, hshown⟩, hfaults⟩

theorem observe_of_transferred {s t : State} {r0 r1 : Byte} (h : SourceMoved (countTransferred s r0 r1) t) :
    observe t = { observe s with
      result := .ok
      count := ⟨some r0, some r1⟩
      countValid := true
      originValid := false
      txlog := s.txlog ++ [0xFF#8, 0x01#8]
      rd := t.rd
      wr := t.wr
      buffered := buffered t
      returned := t.reslog } := by
  have hlog : t.txlog = s.txlog ++ [0xFF#8, 0x01#8] := by
    obtain ⟨_, _, _, _, _, _, _, rfl⟩ := h
    exact List.append_assoc ..
  rw [← hlog]
  obtain ⟨_, _, _, _, _, _, _, rfl⟩ := h
  rfl

/-- Settles O58: the request's four rows, from RXQ and from the ring buffer. -/
theorem queryCountTransfer : Obligations.QueryCountTransfer := by
  unfold Obligations.QueryCountTransfer
  intro s r0 r1
  have hsrc := sameSource_acceptQueryCount s
  refine ⟨fun rest hd hready hq => ?direct, fun held feed rest hrel => ?viaRb⟩
  case direct =>
    obtain ⟨_, t, hrun, hg, hmoved⟩ := reaches_countTransferred (directSupply_gives hsrc hd hready hq)
    refine ⟨t, (framerRun_eq_relayRun 4 _).trans hrun.relayRun_eq, countArrived_of_transferred hmoved, hg.queued, ?_⟩
    rw [observe_of_transferred hmoved, buffered_same hmoved.cfg hg.rd hg.wr hg.rbMem, hg.rd, hg.wr, hg.reslog]
    rfl
  case viaRb =>
    obtain ⟨_, t, hrun, hg, hmoved⟩ := reaches_countTransferred (ringSupply_gives hsrc hrel)
    obtain ⟨hend, hreslog⟩ := RingGives.atEnd hg
    refine ⟨t, hrun.relayRun_eq, countArrived_of_transferred hmoved, hend.keeps, hg.rxq, ?_⟩
    rw [observe_of_transferred hmoved, hend.holds, hreslog]

/-! ### RequestTile: the frame and the header (R146, R148, R155) -/

/-- A RequestTile of `i` that started in `s` and received the origin (x, y), after `m` ready bytes, with the tile buffer
`tb` and at position `f`. -/
def tiling (s : State) (i : HWord) (x y : Byte) (m : Nat) (tb : Memory) (f : Fsm) : State :=
  { acceptRequestTile i s with
    ox := some x
    oy := some y
    tb := tb
    txlog := s.txlog ++ frameImage i ++ List.replicate m Config.readyByte
    fsm := f }

theorem reaches_header {σ : Supply} {s : State} {i : HWord} {x y : Byte} {feed bs : List Byte}
    (h : σ.gives (acceptRequestTile i s) feed (x :: y :: bs)) :
    σ.Reaches 6 feed (acceptRequestTile i s) bs (tiling s i x y 0 s.tb (.rtRdy 0)) := by
  have hframe : s.txlog ++ frameImage i ++ List.replicate 0 Config.readyByte =
      s.txlog ++ [Config.esc] ++ [Config.cmdImage] ++ [lowByte i] ++ [highByte i] := by
    simp [frameImage]
  rw [tiling, hframe]
  have hsent := ((((Supply.Reaches.start h).send .rt0 fun _ _ => rfl).send .rt1 fun _ _ => rfl).send .rt2
    fun _ _ => rfl).send .rt3 fun _ _ => rfl
  exact (hsent.take rfl (.hdr0 rfl)).take rfl (.hdr1 rfl)

/-! ### RequestTile: the payload (R149, R155) -/

section

variable {σ : Supply} {k : Nat} {feed bs : List Byte} {s₀ s : State} {i : HWord} {x y b : Byte} {m r j : Nat}
  {tb : Memory}

theorem Supply.Reaches.sendReady (h : σ.Reaches k feed s₀ bs (tiling s i x y r tb (.rtRdy m))) :
    σ.Reaches (k + 1) feed s₀ bs (tiling s i x y (r + 1) tb (.rtPay m 0)) := by
  rw [tiling, List.replicate_succ', ← List.append_assoc]
  exact h.send (.rdy m) fun _ _ => rfl

theorem Supply.Reaches.takePayload (h : σ.Reaches k feed s₀ (b :: bs) (tiling s i x y r tb (.rtPay m j)))
    (hp : m * s.cfg.chunk + j < s.cfg.payload) :
    σ.Reaches (k + 1) feed s₀ bs
      (tiling s i x y r (tb.write (m * s.cfg.chunk + j) b) (afterPayload s.cfg m j)) :=
  h.take rfl (.pay m j rfl hp)

end

theorem succ_div_mod_inChunk {c q : Nat} (h : q % c + 1 < c) : (q + 1) / c = q / c ∧ (q + 1) % c = q % c + 1 := by
  have hq := Nat.mod_add_div q c
  exact (Nat.div_mod_unique (by omega)).2 ⟨by omega, h⟩

theorem succ_div_mod_chunkEnd {c q : Nat} (h : q % c + 1 = c) : (q + 1) / c = q / c + 1 ∧ (q + 1) % c = 0 := by
  have hq := Nat.mod_add_div q c
  have hmul : c * (q / c + 1) = c * (q / c) + c := Nat.mul_succ ..
  exact (Nat.div_mod_unique (by omega)).2 ⟨by omega, by omega⟩

/-- The tile buffer holds the bytes of `pay` from offset 0 on. -/
def holdsBytes (tb : Memory) (pay : List Byte) : Prop := ∀ p < pay.length, tb.read p = pay[p]?

theorem holdsBytes_write {tb : Memory} {pay : List Byte} (h : holdsBytes tb pay) (b : Byte) :
    holdsBytes (tb.write pay.length b) (pay ++ [b]) := by
  intro p hp
  rw [List.length_append, List.length_singleton] at hp
  rw [Memory.read_write]
  split
  · rename_i heq
    rw [heq, List.getElem?_concat_length]
  · have hlt : p < pay.length := by omega
    rw [h p hlt, List.getElem?_append_left hlt]

/-- After `q` payload bytes, fewer than PAYLOAD, the framer stands at byte q mod CHUNK of chunk q / CHUNK, whose ready byte
has been sent (R155, R161). -/
theorem reaches_payload {σ : Supply} {s : State} {i : HWord} {x y : Byte} {feed bs pay : List Byte}
    (hok : s.cfg.ok = true) (hlen : pay.length < s.cfg.payload)
    (h : σ.gives (acceptRequestTile i s) feed (x :: y :: (pay ++ bs))) :
    ∃ tb, holdsBytes tb pay ∧
      σ.Reaches (4 + 2 + (pay.length / s.cfg.chunk + 1) + pay.length) feed (acceptRequestTile i s) bs
        (tiling s i x y (pay.length / s.cfg.chunk + 1) tb
          (.rtPay (pay.length / s.cfg.chunk) (pay.length % s.cfg.chunk))) := by
  induction pay using List.reverseRecOn generalizing bs with
  | nil =>
    refine ⟨s.tb, nofun, ?_⟩
    rw [List.length_nil, Nat.zero_div, Nat.zero_mod]
    exact (reaches_header h).sendReady
  | append_singleton init b ih =>
    rw [List.length_append, List.length_singleton] at hlen ⊢
    obtain ⟨tb, htb, hreach⟩ := ih (bs := b :: bs) (by omega) (by simpa using h)
    have hmod : init.length % s.cfg.chunk < s.cfg.chunk := Nat.mod_lt _ (chunk_pos hok)
    have hoff : init.length / s.cfg.chunk * s.cfg.chunk + init.length % s.cfg.chunk = init.length :=
      Nat.div_add_mod' ..
    have hbyte := hreach.takePayload (by omega)
    rw [hoff] at hbyte
    refine ⟨_, holdsBytes_write htb b, ?_⟩
    rcases Nat.lt_or_eq_of_le (Nat.succ_le_of_lt hmod) with hin | hlast
    · obtain ⟨hdiv', hmod'⟩ := succ_div_mod_inChunk hin
      rw [afterPayload_inChunk hin] at hbyte
      rw [hdiv', hmod']
      exact hbyte
    · obtain ⟨hdiv', hmod'⟩ := succ_div_mod_chunkEnd hlast
      have hnext : init.length / s.cfg.chunk + 1 < s.cfg.nchunk := by
        rw [← hdiv', Nat.div_lt_iff_lt_mul (chunk_pos hok), nchunk_mul_chunk hok]
        exact hlen
      rw [afterPayload_chunkEnd hlast hnext] at hbyte
      have hsteps : 4 + 2 + (init.length / s.cfg.chunk + 1 + 1) + (init.length + 1) =
          4 + 2 + (init.length / s.cfg.chunk + 1) + init.length + 1 + 1 := by omega
      rw [hdiv', hmod', hsteps]
      exact hbyte.sendReady

/-! ### RequestTile: the whole response (R155, R216) -/

theorem payload_pos {c : Params} (h : c.ok = true) : 0 < c.payload := by
  obtain ⟨-, -, -, -, -, -, hchunk, hle, -⟩ := params_bounds h
  exact hchunk.trans hle

/-- The last payload byte is the last of the last chunk. -/
theorem last_div_mod {c : Params} (h : c.ok = true) {q : Nat} (hq : q + 1 = c.payload) :
    q % c.chunk + 1 = c.chunk ∧ q / c.chunk + 1 = c.nchunk := by
  obtain ⟨-, -, -, -, -, -, hchunk, -, hdvd⟩ := params_bounds h
  have hmod : q % c.chunk < c.chunk := Nat.mod_lt _ hchunk
  have hlast : q % c.chunk + 1 = c.chunk := by
    by_contra hne
    obtain ⟨-, hmod'⟩ := succ_div_mod_inChunk (show q % c.chunk + 1 < c.chunk by omega)
    rw [hq, hdvd] at hmod'
    omega
  refine ⟨hlast, ?_⟩
  rw [Params.nchunk, ← hq, (succ_div_mod_chunkEnd hlast).1]

theorem reaches_rendered {σ : Supply} {s : State} {i : HWord} {x y : Byte} {feed pay : List Byte}
    (hok : s.cfg.ok = true) (hlen : pay.length = s.cfg.payload)
    (h : σ.gives (acceptRequestTile i s) feed (x :: y :: pay)) :
    ∃ tb, holdsBytes tb pay ∧
      σ.Reaches (4 + 2 + s.cfg.nchunk + s.cfg.payload + 1) feed (acceptRequestTile i s) []
        (renderStep (tiling s i x y s.cfg.nchunk tb .rtDisp)) := by
  rcases List.eq_nil_or_concat' pay with rfl | ⟨init, b, rfl⟩
  · exact absurd hlen.symm (payload_pos hok).ne'
  · rw [List.length_append, List.length_singleton] at hlen
    obtain ⟨tb, htb, hreach⟩ := reaches_payload hok (by omega) h
    obtain ⟨hlast, hend⟩ := last_div_mod hok hlen
    have hoff : init.length / s.cfg.chunk * s.cfg.chunk + init.length % s.cfg.chunk = init.length :=
      Nat.div_add_mod' ..
    have hbyte := hreach.takePayload (by omega)
    rw [afterPayload_tileEnd hlast hend, hoff, hend, Nat.add_assoc _ _ 1, hlen] at hbyte
    exact ⟨_, holdsBytes_write htb b, hbyte.render rfl⟩

theorem pixelSeq_congr {n : Nat} {f g : Nat → Byte} (h : ∀ p < 2 * n, f p = g p) : pixelSeq n f = pixelSeq n g := by
  refine List.map_congr_left fun i hi => ?_
  rw [List.mem_range] at hi
  rw [pixelAt, pixelAt, h _ (by omega), h _ (by omega)]

theorem tileByte_of_holdsBytes {s : State} {pay : List Byte} (h : holdsBytes s.tb pay) {p : Nat}
    (hp : p < pay.length) : tileByte s p = pay.getD p 0#8 := by
  rw [tileByte, h p hp, List.getD_eq_getElem?_getD, List.getElem?_eq_getElem hp]
  rfl

theorem tileArrived_of_rendered {s t : State} {i : HWord} {x y : Byte} {pay : List Byte} {tb : Memory}
    (hlen : pay.length = s.cfg.payload) (htb : holdsBytes tb pay)
    (h : SourceMoved (renderStep (tiling s i x y s.cfg.nchunk tb .rtDisp)) t) : tileArrived i x y pay s t := by
  obtain ⟨_, _, _, _, _, _, _, rfl⟩ := h
  refine ⟨rfl, rfl, rfl, rfl, rfl, rfl, fun p hp => htb p (hlen ▸ hp), ?_, rfl⟩
  have hpx : pixelSeq s.cfg.npix (tileByte (tiling s i x y s.cfg.nchunk tb .rtDisp)) =
      pixelSeq s.cfg.npix fun p => pay.getD p 0#8 :=
    pixelSeq_congr fun p hp => tileByte_of_holdsBytes htb (hlen ▸ hp)
  rw [← hpx]
  rfl

/-- Settles O59: the response's rows and the render step, from RXQ and from the ring buffer. -/
theorem completeTransfer : Obligations.CompleteTransfer := by
  unfold Obligations.CompleteTransfer
  intro s i x y pay hlen
  have hsrc := sameSource_acceptRequestTile i s
  refine ⟨fun rest hok hd hready hq => ?direct, fun held feed rest hrel => ?viaRb⟩
  case direct =>
    obtain ⟨tb, htb, _, t, hrun, hg, hmoved⟩ :=
      reaches_rendered hok hlen (directSupply_gives (bs := x :: y :: pay) hsrc hd hready hq)
    exact ⟨t, (framerRun_eq_relayRun _ _).trans hrun.relayRun_eq, tileArrived_of_rendered hlen htb hmoved, hg.queued,
      hg.sameRing, hg.reslog⟩
  case viaRb =>
    obtain ⟨tb, htb, _, t, hrun, hg, hmoved⟩ := reaches_rendered hrel.params hlen (ringSupply_gives hsrc hrel)
    obtain ⟨hend, hreslog⟩ := RingGives.atEnd hg
    exact ⟨t, hrun.relayRun_eq, tileArrived_of_rendered hlen htb hmoved, hg.rxq, hend.keeps, hreslog⟩

/-! ### RequestTile: a link error in the payload (R144, R151, R161, R219) -/

theorem tileAborted_abort {s t : State} {i : HWord} {x y : Byte} {q m j : Nat} {tb : Memory}
    (h : SourceMoved (tiling s i x y (q / s.cfg.chunk + 1) tb (.rtPay m j)) t) : tileAborted i q s (abort t) := by
  obtain ⟨_, _, _, _, _, _, _, rfl⟩ := h
  exact ⟨rfl, rfl, rfl, rfl, rfl, rfl, fun _ => rfl, rfl, rfl, rfl⟩

theorem prodPerr_viaRb {s : State} (hv : s.cfg.rxPath = .viaRb) :
    prodPerr s = .next (answer 0#16 { s with issuer := .prod, linkErr := true }) :=
  execRbPerr_prod (s := { s with issuer := .prod }) hv rfl

/-- Settles O60: the payload's rows as far as it came, then the link error at the head of RXQ, or PROD's RB.PERR. -/
theorem abortedTransfer : Obligations.AbortedTransfer := by
  unfold Obligations.AbortedTransfer
  intro s i x y pay hlen
  have hsrc := sameSource_acceptRequestTile i s
  refine ⟨fun kind rest hok hd hready hq => ?direct, fun held feed rest hrel => ?viaRb⟩
  case direct =>
    have hg₀ := directSupply_gives (bs := x :: y :: (pay ++ [])) hsrc hd hready (by simpa using hq)
    obtain ⟨tb, -, _, t, hrun, hg, hmoved⟩ := reaches_payload hok hlen hg₀
    have hrec : t.fsm.receives = true := by rw [hmoved.fsm]; rfl
    have hstep := framerStep_linkErr hrec (rxTake_direct_linkErr hg.path hg.queued)
    have htaken : SourceMoved t { t with rxq := rest } := ⟨_, _, _, _, _, _, _, rfl⟩
    refine ⟨_, ?_, tileAborted_abort (hmoved.trans htaken), rfl, hg.sameRing, hg.reslog⟩
    obtain rfl := hg.fed
    rw [framerRun_add ((framerRun_eq_relayRun _ _).trans hrun.relayRun_eq), framerRun, hstep]
    rfl
  case viaRb =>
    have hg₀ := ringSupply_gives hsrc (List.append_nil pay ▸ hrel)
    obtain ⟨tb, -, _, t, hrun, hg, hmoved⟩ := reaches_payload hrel.params hlen hg₀
    obtain ⟨hend, hreslog⟩ := RingGives.atEnd hg
    have hrec : t.fsm.receives = true := by rw [hmoved.fsm]; rfl
    have hstep := framerStep_linkErr (s := answer 0#16 { t with issuer := .prod, linkErr := true }) hrec
      (rxTake_viaRb_linkErr hend.path rfl)
    have htaken : SourceMoved t
        { answer 0#16 { t with issuer := .prod, linkErr := true } with linkErr := false } :=
      ⟨_, _, _, _, _, _, _, rfl⟩
    refine ⟨_, ?_, tileAborted_abort (hmoved.trans htaken), hg.rxq,
      ⟨hend.rdRange, hend.wrRange, hend.holds, rfl⟩, ?_⟩
    · rw [hrun.relayRun_eq, thenRun_next, prodPerr_viaRb hend.path, thenRun_next, hstep]
    · rw [List.replicate_succ', ← List.append_assoc, ← hreslog]
      rfl

end Sys2Proof.Machine
end

section
/-! PROOF. The pixel converter and the render step (42_pixel_converter.md R190 to R195, 43_tile_rasterizer.md R216): LE16 and
its inverse, the pixels of a payload, and the one set_block of a tile whose bytes were all received. -/

namespace Sys2Proof

/-! ### LE16 and its two bytes (R190, R195) -/

@[simp] theorem lowByte_le16 (b0 b1 : Byte) : lowByte (le16 b0 b1) = b0 := by
  apply BitVec.eq_of_toNat_eq
  rw [lowByte_toNat, le16_toNat]
  omega

@[simp] theorem highByte_le16 (b0 b1 : Byte) : highByte (le16 b0 b1) = b1 := by
  apply BitVec.eq_of_toNat_eq
  rw [highByte_toNat, le16_toNat]
  omega

/-- Settles O46: the number is `le16_toNat`; the corner cases and the example are closed. -/
theorem pixelDecode : Obligations.PixelDecode := by
  unfold Obligations.PixelDecode
  exact ⟨fun b0 b1 => ⟨le16_toNat b0 b1, (le16 b0 b1).isLt⟩, by decide⟩

end Sys2Proof

namespace Sys2Proof.Machine

/-! ### The pixel sequence (R193, R195) -/

@[simp] theorem pixelSeq_length (n : Nat) (pay : Nat → Byte) : (pixelSeq n pay).length = n := by
  rw [pixelSeq, List.length_map, List.length_range]

theorem pixelSeq_getElem? {n i : Nat} (pay : Nat → Byte) (h : i < n) :
    (pixelSeq n pay)[i]? = some (le16 (pay (2 * i)) (pay (2 * i + 1))) := by
  rw [pixelSeq, List.getElem?_map, List.getElem?_range h]
  rfl

@[simp] theorem pixelBytes_le16 (b0 b1 : Byte) : pixelBytes (le16 b0 b1) = (b0, b1) := by
  rw [pixelBytes, lowByte_le16, highByte_le16]

/-- Settles O47: pixel i is LE16 of bytes 2i and 2i+1, and `pixelBytes` undoes LE16. -/
theorem pixelSequence : Obligations.PixelSequence := by
  unfold Obligations.PixelSequence
  refine ⟨fun n pay => ⟨pixelSeq_length n pay, fun i hi => ⟨_, pixelSeq_getElem? pay hi, le16_toNat _ _⟩, fun p hp => ?_⟩,
    le16_lowByte_highByte⟩
  refine ⟨_, pixelSeq_getElem? pay (by omega), ?_⟩
  rw [pixelBytes_le16]
  split
  case isTrue heven => rw [show 2 * (p / 2) = p by omega]
  case isFalse hodd => rw [show 2 * (p / 2) + 1 = p by omega]

/-! ### The render step on a tile that was all received (R216, R219) -/

section
variable {s : State} {x y : Byte} {pay : Nat → Byte}

theorem renderWritten_of_received (hx : s.ox = some x) (hy : s.oy = some y)
    (htb : ∀ p, p < s.cfg.payload → s.tb.read p = some (pay p)) : renderWritten s = true := by
  have hall : ((List.range s.cfg.payload).all fun p => (s.tb.read p).isSome) = true :=
    List.all_eq_true.2 fun p hp => by rw [htb p (List.mem_range.1 hp), Option.isSome_some]
  rw [renderWritten, hx, hy, hall]
  rfl

/-- Where nothing read is `unwritten`, the render step draws nothing. -/
theorem renderStep_of_written (h : renderWritten s = true) :
    renderStep s = { s with displog := s.displog ++ [blockWrite s], fsm := .rtWait } := by
  rw [renderStep, if_pos h]

theorem framerStep_rtDisp (hf : s.fsm = .rtDisp) : framerStep s = .next (renderStep s) := by
  rw [framerStep, hf]

theorem blockWrite_px_of_received (htb : ∀ p, p < s.cfg.payload → s.tb.read p = some (pay p)) :
    (blockWrite s).px = pixelSeq s.cfg.npix pay :=
  pixelSeq_congr fun p hp => by rw [tileByte, htb p hp, Option.getD_some]

theorem blockWrite_origin (hx : s.ox = some x) (hy : s.oy = some y) :
    (blockWrite s).x.toNat = x.toNat ∧ (blockWrite s).y.toNat = y.toNat := by
  rw [blockWrite, hx, hy]
  exact ⟨BitVec.toNat_setWidth_of_le (by decide), BitVec.toNat_setWidth_of_le (by decide)⟩

/-- A tile is at most 256 pixels wide and high (R6), so its size fits the call's 16-bit fields. -/
theorem blockWrite_size (hok : s.cfg.ok = true) :
    (blockWrite s).w.toNat = s.cfg.tileW ∧ (blockWrite s).h.toNat = s.cfg.tileH := by
  obtain ⟨-, -, -, hw, -, hh, -⟩ := params_bounds hok
  exact ⟨Nat.mod_eq_of_lt (by omega), Nat.mod_eq_of_lt (by omega)⟩

end

/-- Settles O44: the call is `blockWrite`, whose pixels are the received payload's. -/
theorem renderIssuesBlock : Obligations.RenderIssuesBlock := by
  unfold Obligations.RenderIssuesBlock
  intro s x y pay hok hf hx hy htb
  obtain ⟨hbx, hby⟩ := blockWrite_origin hx hy
  obtain ⟨hbw, hbh⟩ := blockWrite_size hok
  have hpx := blockWrite_px_of_received htb
  refine ⟨blockWrite s, ?_, hbx, hby, hbw, hbh, rfl, ?_, fun i hi => ?_⟩
  · rw [framerStep_rtDisp hf, renderStep_of_written (renderWritten_of_received hx hy htb)]
  · rw [hpx, pixelSeq_length, Params.npix]
  · exact ⟨_, hpx ▸ pixelSeq_getElem? pay hi, le16_toNat _ _⟩

end Sys2Proof.Machine
end

section
/-! PROOF. The mapper (43_tile_rasterizer.md R210 to R213): its two maps undo one another, and every address of a pixel is
the one its index gives. -/

namespace Sys2Proof.Machine

/-! ### The two maps (R210, R212) -/

section
variable {c : Params} {i r k : Nat}

theorem pixelIndex_eq_some : pixelIndex c r k = some i ↔ r < c.tileH ∧ k < c.tileW ∧ i = r * c.tileW + k := by
  simp [pixelIndex, and_assoc, eq_comm]

theorem pixelRowCol_eq_some : pixelRowCol c i = some (r, k) ↔ i < c.npix ∧ r = i / c.tileW ∧ k = i % c.tileW := by
  simp [pixelRowCol, eq_comm]

theorem pixelIndex_inGrid (hr : r < c.tileH) (hk : k < c.tileW) : pixelIndex c r k = some (r * c.tileW + k) :=
  if_pos ⟨hr, hk⟩

theorem pixelIndex_outOfGrid (h : ¬(r < c.tileH ∧ k < c.tileW)) : pixelIndex c r k = none := if_neg h

theorem pixelRowCol_outOfTile (h : c.npix ≤ i) : pixelRowCol c i = none := if_neg h.not_gt

/-- The rows fill the pixel indexes one after the other. -/
theorem pixelIndex_lt_npix (hr : r < c.tileH) (hk : k < c.tileW) : r * c.tileW + k < c.npix :=
  calc r * c.tileW + k < (r + 1) * c.tileW := by rw [Nat.add_one_mul]; omega
    _ ≤ c.tileH * c.tileW := Nat.mul_le_mul_right _ hr
    _ = c.npix := Nat.mul_comm _ _

/-- Division by TILE_W with remainder takes a pixel's index apart, so neither map loses a pixel (R210). -/
theorem pixelRowCol_eq_some_iff_pixelIndex : pixelRowCol c i = some (r, k) ↔ pixelIndex c r k = some i := by
  rw [pixelRowCol_eq_some, pixelIndex_eq_some]
  constructor
  · rintro ⟨hi, rfl, rfl⟩
    have hw : 0 < c.tileW := Nat.pos_of_mul_pos_right (Nat.zero_lt_of_lt hi)
    exact ⟨Nat.div_lt_of_lt_mul hi, Nat.mod_lt _ hw, (Nat.div_add_mod' _ _).symm⟩
  · rintro ⟨hr, hk, rfl⟩
    obtain ⟨hdiv, hmod⟩ : (r * c.tileW + k) / c.tileW = r ∧ (r * c.tileW + k) % c.tileW = k :=
      (Nat.div_mod_unique (Nat.zero_lt_of_lt hk)).2 ⟨by rw [Nat.mul_comm, Nat.add_comm], hk⟩
    exact ⟨pixelIndex_lt_npix hr hk, hdiv.symm, hmod.symm⟩

end

/-- Settles O48: the two maps as `pixelIndex_eq_some` and `pixelRowCol_eq_some` have them, and each undoes the other. -/
theorem mapperBijection : Obligations.MapperBijection := by
  unfold Obligations.MapperBijection
  intro c _
  exact ⟨fun _ _ _ => pixelIndex_eq_some, fun _ _ _ => pixelRowCol_eq_some,
    fun _ _ _ => pixelRowCol_eq_some_iff_pixelIndex⟩

/-! ### Addresses and the display position (R211, R213) -/

/-- Settles O49: every address goes through `pixelIndex`, which has none outside the grid; inside it the index is below
NPIX, and an origin byte plus a row or column below 256 fits 16 bits. -/
theorem mapperAddresses : Obligations.MapperAddresses := by
  unfold Obligations.MapperAddresses
  refine ⟨fun c r k ox oy hout => ?_, fun c i => pixelRowCol_outOfTile, fun c r k pay ox oy hok hr hk => ?_⟩
  · simp [pixelLo, pixelHi, displayPos, pixelIndex_outOfGrid hout]
  · obtain ⟨-, -, -, hw, -, hh, -⟩ := params_bounds hok
    have hlt := pixelIndex_lt_npix hr hk
    have hx := ox.isLt
    have hy := oy.isLt
    refine ⟨?_, ?_, ?_, pixelSeq_getElem? pay hlt, ?_, by omega, by omega, by omega, by omega⟩
    · rw [pixelLo, pixelIndex_inGrid hr hk, Option.map_some]
    · rw [pixelHi, pixelIndex_inGrid hr hk, Option.map_some]
    · rw [Params.payload]
      omega
    · rw [displayPos, pixelIndex_inGrid hr hk, Option.map_some]

end Sys2Proof.Machine
end

section
/-! PROOF. Who issues a set_block, and when the framer comes to the render step (43_tile_rasterizer.md R217, R219). -/

namespace Sys2Proof.Machine

/-! ### The operations -/

/-- An operation issues no set_block and does not bring the framer to the render step (R152, R153, R218). -/
theorem OpNext.keepsDisplog {u t : State} {i : Instr} (h : OpNext u i t) :
    t.displog = u.displog ∧ (t.fsm = .rtDisp → u.fsm = .rtDisp) := by
  rcases h.writes with hr | ⟨-, b, -, hr⟩ | ⟨-, -, -, hr⟩ | ⟨-, -, -, hr⟩ | ⟨-, -, hr⟩ | ⟨-, idx, -, hr⟩ <;>
    obtain ⟨_, _, _, rfl⟩ := hr
  case inr.inr.inr.inr.inl | inr.inr.inr.inr.inr => exact ⟨rfl, nofun⟩
  all_goals exact ⟨rfl, id⟩

/-! ### The framer -/

theorem SendRow.ne_rtDisp {i : HWord} {f n : Fsm} {b : Byte} (row : SendRow i f b n) : n ≠ .rtDisp := by
  cases row <;> nofun

theorem RecvRow.displog_eq {t u : State} {b : Byte} (row : RecvRow t b u) : u.displog = t.displog := by
  cases row <;> rfl

theorem rxTake_byte_displog {s t : State} {b : Byte} (h : rxTake s = .byte b t) : t.displog = s.displog := by
  rcases rxTake_byte h with ⟨-, _, -, rfl⟩ | ⟨-, -, -, -, -, rfl⟩
  · rfl
  · rcases ringHead_state s with e | e <;> rw [e] <;> rfl

theorem rxTake_linkErr_displog {s t : State} {k : Option LinkKind} (h : rxTake s = .linkErr k t) :
    t.displog = s.displog := by
  rcases rxTake_linkErr h with ⟨-, _, _, -, -, rfl⟩ | ⟨-, -, -, rfl⟩ <;> rfl

/-- Only a payload byte leads to the render step (R155). -/
theorem RecvRow.from_rtPay {t u : State} {b : Byte} (row : RecvRow t b u) (hu : u.fsm = .rtDisp) :
    ∃ m j, t.fsm = .rtPay m j ∧ afterPayload t.cfg m j = .rtDisp := by
  cases row with
  | pay m j hf => exact ⟨m, j, hf, hu⟩
  | qc0 | qc1 | hdr0 | hdr1 => cases hu

/-- Of the framer's steps the render step alone issues a set_block (R216). -/
theorem FramerNext.displog_eq {s t : State} (h : FramerNext s t) :
    t.displog = s.displog ∨ (s.fsm = .rtDisp ∧ t = renderStep s) := by
  cases h with
  | rendered hf => exact .inr ⟨hf, rfl⟩
  | stay | holdDrawn | finished => exact .inl rfl
  | sent u i b n hu => rcases hu with rfl | ⟨-, -, rfl⟩ <;> exact .inl rfl
  | aborted k u _ hx => exact .inl ((abort_displog u).trans (rxTake_linkErr_displog hx))
  | received b u t _ hx row => exact .inl (row.displog_eq.trans (rxTake_byte_displog hx))

/-- The framer comes to the render step by a payload byte alone; an abort goes to IDLE (R151, R155). -/
theorem FramerNext.from_rtPay {s t : State} (h : FramerNext s t) (ht : t.fsm = .rtDisp) :
    s.fsm = .rtDisp ∨ ∃ m j, s.fsm = .rtPay m j ∧ afterPayload s.cfg m j = .rtDisp := by
  cases h with
  | stay | holdDrawn => exact .inl ht
  | sent u i b n _ _ _ row => exact absurd ht row.ne_rtDisp
  | aborted | rendered | finished => cases ht
  | received b u t _ hx row =>
    obtain ⟨hcfg, hfsm⟩ := rxTake_byte_fsm hx
    rw [← hcfg, ← hfsm]
    exact .inr (row.from_rtPay ht)

/-- The payload byte that leads to the render step is the last (R155). -/
theorem Inv.lastPayloadByte {s : State} (h : Inv s) {m j : Nat} (hf : s.fsm = .rtPay m j)
    (hlast : afterPayload s.cfg m j = .rtDisp) : m * s.cfg.chunk + j + 1 = s.cfg.payload := by
  have hfits := h.fsmFits
  rw [hf] at hfits
  obtain ⟨-, hm, hj⟩ := hfits
  obtain ⟨hrec, -⟩ := afterPayload_spec h.params hm hj
  rw [← hrec, hlast]
  rfl

/-- At the render step the whole payload is in TB (R219). -/
theorem Inv.tileWritten_of_rtDisp {s : State} (h : Inv s) (hf : s.fsm = .rtDisp) : tileWritten s s.cfg.payload := by
  have hpay := h.payloadWritten
  rwa [hf] at hpay

/-! ### Any agent -/

/-- DISP's answer settles a call and adds none; the render step adds one (R215, R216, R218). -/
theorem AgentNext.displog_length {s t : State} {e : AgentStep} (h : AgentNext s e t) :
    t.displog.length = s.displog.length ∨ (e = .framer ∧ s.fsm = .rtDisp ∧ t = renderStep s) := by
  cases h with
  | framer t hf =>
    rcases hf.displog_eq with heq | ⟨hdisp, rfl⟩
    · exact .inl (congrArg _ heq)
    · exact .inr ⟨rfl, hdisp, rfl⟩
  | operation a w i t _ hop => exact .inl (congrArg _ hop.keepsDisplog.1)
  | answer ok => exact .inl (settleLast_length _ _)
  | reserved | sendDirect | sendViaRb | sink | drop => exact .inl rfl

theorem AgentNext.from_rtPay {s t : State} {e : AgentStep} (h : AgentNext s e t) (ht : t.fsm = .rtDisp) :
    s.fsm = .rtDisp ∨ (e = .framer ∧ ∃ m j, s.fsm = .rtPay m j ∧ afterPayload s.cfg m j = .rtDisp) := by
  cases h with
  | framer t hf => exact (hf.from_rtPay ht).imp_right (⟨rfl, ·⟩)
  | operation a w i t _ hop => exact .inl (hop.keepsDisplog.2 ht)
  | reserved | sendDirect | sendViaRb | sink | drop | answer => exact .inl ht

/-- Settles O57: the log grows by the render step alone, and the payload byte that leads there fills TB. -/
theorem blockWriteOncePerTransfer : Obligations.BlockWriteOncePerTransfer := by
  unfold Obligations.BlockWriteOncePerTransfer
  intro s t e h hstep
  have hn := agentStep_next hstep
  refine ⟨?issued, ?once, ?reached⟩
  case issued =>
    refine hn.displog_length.imp_right ?_
    rintro ⟨rfl, hf, rfl⟩
    exact ⟨rfl, hf, rfl, blockWrite s, rfl, rfl⟩
  case once =>
    rintro hf rfl
    obtain rfl : renderStep s = t := Host.Outcome.next.inj ((framerStep_rtDisp hf).symm.trans hstep)
    rw [renderStep_displog, List.length_append, List.length_singleton]
  case reached =>
    intro ht
    refine (hn.from_rtPay ht).imp_right ?_
    rintro ⟨he, m, j, hf, hlast⟩
    exact ⟨he, m, j, hf, h.lastPayloadByte hf hlast, hn.cfg_eq ▸ (hn.keepsInv h).tileWritten_of_rtDisp ht⟩

end Sys2Proof.Machine
end

section
/-! PROOF. Misuse and its fault codes (60_exceptions.md R243 to R246): of the checks on an operation word the first that
applies raises its code and no other does, and under the invariant no step of an agent that exists stops the block. -/

namespace Sys2Proof.Machine

/-! ### The checks on an operation word (R82, R84, R246) -/

/-- The code that the owner of its port raises with an operation, where the operation's own precondition fails (R101,
R103, R152, R153, R157, R158). -/
def ownFault (s : State) : Instr → Option FaultCode
  | .rbPut _ => if isFull s then some .rbPutFull else none
  | .rbGet => if isEmpty s then some .rbGetEmpty else none
  | .frQc | .frTile _ => if busy s then some .frBusy else none
  | .frCount => if s.countValid then none else some .undefRead
  | .frOrigin => if s.originValid then none else some .undefRead
  | .rbPerr | .rbHasdata | .rbIsempty | .rbIsfull | .rbSlots | .frStat => none
  | .getImageCount | .getImage _ | .ready | .countResp _ _ | .tileHdr _ _ | .payloadPixel _ _ => none

/-- The one code that an operation raises when `a` issues it, if any: the reserved word is looked for first, the port
next, the own precondition last (R246). -/
def raisedFault (s : State) (a : Agent) (i : Instr) : Option FaultCode :=
  if i.wf s.cfg.rxPath then
    if (portOf i).all (ownsPort s.cfg.rxPath a) then ownFault s i else some .port
  else some .reserved

/-- No check reads who issued the word before. -/
theorem raisedFault_issuer (s : State) (a b : Agent) (i : Instr) :
    raisedFault { s with issuer := b } a i = raisedFault s a i := by
  cases i <;> rfl

/-- An operation adds the one code it raises, and takes none away (R243): each of its outcomes comes with the checks
that lead to it. -/
theorem OpNext.has_fault_iff {u t : State} {i : Instr} (h : OpNext u i t) (f : FaultCode) :
    t.faults.has f = true ↔ u.faults.has f = true ∨ raisedFault u u.issuer i = some f := by
  cases h with
  | port i p hport hwf hown => simp [raisedFault, hwf, hport, hown, or_comm]
  | status i v hport => cases i <;> cases hport <;> simp [raisedFault, Instr.wf, portOf, ownsPort, ownFault]
  | put b ha =>
    cases hfull : isFull u <;> simp [raisedFault, Instr.wf, portOf, ownsPort, ownFault, ha, hfull, or_comm]
  | perrDirect | perr | getEmpty | get | stat | query | tile | queryBusy | tileBusy | count | countUndef | origin
  | originUndef =>
    simp [raisedFault, Instr.wf, portOf, ownsPort, ownFault, isEmpty, busy, or_comm, *]

/-! ### The causes of the fault codes (R244) -/

/-- Only an issued word causes a fault. -/
theorem not_faultCause {s : State} {e : AgentStep} (he : ∀ a w, e ≠ .issue a w) (f : FaultCode) :
    ¬ faultCause s e f := by
  cases f <;> simp [faultCause, issues, he]

theorem faultCause_noOperation {s : State} {a : Agent} {w : OpWord} {r : Reject} (hd : decodeWord w = .error r)
    (f : FaultCode) : faultCause s (.issue a w) f ↔ f = .reserved := by
  cases f <;> simp [faultCause, issues, reservedWord, hd]

theorem exists_portOf_of_encodeWord {i : Instr} {w : OpWord} (h : encodeWord i = some w) :
    ∃ p, portOf i = some p := by
  cases i <;> cases h <;> exact ⟨_, rfl⟩

section
variable {s : State} {a : Agent} {w : OpWord} {i : Instr} {p : Port}

theorem issues_issue_iff (hd : decodeWord w = .ok i) (b : Agent) (j : Instr) :
    issues (.issue a w) b j ↔ a = b ∧ i = j := by
  simp [issues, hd]

/-- Of the operations RB.PERR alone can be reserved, and no other code is caused by it then. -/
theorem faultCause_notWf (hd : decodeWord w = .ok i) (hwf : i.wf s.cfg.rxPath = false) (f : FaultCode) :
    faultCause s (.issue a w) f ↔ f = .reserved := by
  obtain ⟨rfl, hdirect⟩ := wf_eq_false_iff.1 hwf
  cases f <;> simp [faultCause, issues_issue_iff hd, reservedWord, hd, hdirect, Instr.wf]

/-- An agent that does not own the port causes no code of an operation's own precondition. -/
theorem faultCause_notOwner (hd : decodeWord w = .ok i) (hwf : i.wf s.cfg.rxPath = true) (hport : portOf i = some p)
    (hown : ownsPort s.cfg.rxPath a p = false) (f : FaultCode) : faultCause s (.issue a w) f ↔ f = .port := by
  cases f with
  | reserved => simp [faultCause, reservedWord, hd, hwf]
  | port => simp [faultCause, issues_issue_iff hd, hwf, hport, hown]
  | rbPutFull | rbGetEmpty | frBusy | undefRead =>
    cases i <;> cases hport <;> simp [ownsPort] at hown <;> simp +contextual [faultCause, issues_issue_iff hd, hown]

/-- The owner of the port causes the code of the operation's own precondition alone. -/
theorem faultCause_owner (hd : decodeWord w = .ok i) (hwf : i.wf s.cfg.rxPath = true) (hport : portOf i = some p)
    (hown : ownsPort s.cfg.rxPath a p = true) (f : FaultCode) :
    faultCause s (.issue a w) f ↔ ownFault s i = some f := by
  have hcode : ownFault s i ≠ some .reserved ∧ ownFault s i ≠ some .port := by
    cases i <;> simp [ownFault]
  cases f with
  | reserved => simp [faultCause, reservedWord, hd, hwf, hcode]
  | port => simp [faultCause, issues_issue_iff hd, hport, hown, hcode]
  | rbPutFull | rbGetEmpty | frBusy | undefRead =>
    cases i <;> cases hport <;> simp [ownsPort] at hown <;>
      simp [faultCause, issues_issue_iff hd, ownFault, isFull, isEmpty, busy, hown]

/-- The causes that the claim names are the checks in their order. -/
theorem faultCause_iff_raisedFault (hd : decodeWord w = .ok i) (f : FaultCode) :
    faultCause s (.issue a w) f ↔ raisedFault s a i = some f := by
  obtain ⟨w', hw⟩ := decodeWord_operation hd
  obtain ⟨p, hport⟩ := exists_portOf_of_encodeWord hw
  cases hwf : i.wf s.cfg.rxPath with
  | false => simp [faultCause_notWf hd hwf, raisedFault, hwf, eq_comm]
  | true =>
    cases hown : ownsPort s.cfg.rxPath a p with
    | false => simp [faultCause_notOwner hd hwf hport hown, raisedFault, hwf, hport, hown, eq_comm]
    | true => simp [faultCause_owner hd hwf hport hown, raisedFault, hwf, hport, hown]

end

/-- Settles O54: a word that is no operation is reserved, an operation adds the code of the first check that applies,
and a step of another kind leaves the fault set as it is. -/
theorem faultsHaveTheirCauses : Obligations.FaultsHaveTheirCauses := by
  unfold Obligations.FaultsHaveTheirCauses
  intro s t e f h
  cases agentStep_next h with
  | reserved a w r hd => simp [faultCause_noOperation hd, or_comm, eq_comm (a := f)]
  | operation a w i t hd hop =>
    rw [faultCause_iff_raisedFault hd, ← raisedFault_issuer s a a]
    exact hop.has_fault_iff f
  | framer t hf =>
    rw [hf.faults_eq]
    exact (or_iff_left (not_faultCause (by simp) f)).symm
  | sendDirect | sendViaRb | sink | drop | answer =>
    exact (or_iff_left (not_faultCause (by simp) f)).symm

/-! ### Nothing stops the block (R243) -/

theorem guardPort_completes {p : Port} {u : State} {body : State → Out} (h : ∃ t, body u = .next t) :
    ∃ t, guardPort p u body = .next t := by
  cases hown : ownsPort u.cfg.rxPath u.issuer p with
  | true => rwa [guardPort_owner hown]
  | false => exact ⟨_, guardPort_other hown⟩

theorem putByte_completes {u : State} (hw : u.wr ≤ u.cfg.mask) (b : Byte) : ∃ t, putByte b u = .next t :=
  ⟨_, if_pos ((slotExists_iff _ _).2 hw)⟩

theorem getByte_completes {u : State} (hr : u.rd ≤ u.cfg.mask) : ∃ t, getByte u = .next t := by
  by_cases he : u.rd = u.wr
  · exact ⟨_, getByte_empty he⟩
  · exact ⟨_, getByte_buffered hr he⟩

/-- With both cursors in range every operation ends in a next state, whoever issues it. -/
theorem exec_operation_completes {i : Instr} {w : OpWord} {u : State} (hw : encodeWord i = some w)
    (hrd : u.rd ≤ u.cfg.mask) (hwr : u.wr ≤ u.cfg.mask) : ∃ t, exec i u = .next t := by
  cases i <;> cases hw
  case rbPut b => exact guardPort_completes (putByte_completes hwr b)
  case rbGet => exact guardPort_completes (getByte_completes hrd)
  case rbPerr =>
    rw [exec, execRbPerr]
    split
    · exact ⟨_, rfl⟩
    · exact guardPort_completes ⟨_, rfl⟩
  case rbHasdata => exact ⟨_, exec_rbHasdata u⟩
  case rbIsempty => exact ⟨_, exec_rbIsempty u⟩
  case rbIsfull => exact ⟨_, exec_rbIsfull u⟩
  case rbSlots => exact ⟨_, exec_rbSlots u⟩
  case frStat =>
    rw [exec, execFrStat]
    exact guardPort_completes ⟨_, rfl⟩
  all_goals
    simp only [exec, execFrQc, execFrTile, execFrCount, execFrOrigin]
    refine guardPort_completes ?_
    split <;> exact ⟨_, rfl⟩

theorem issueWord_completes {s : State} (hrd : s.rd ≤ s.cfg.mask) (hwr : s.wr ≤ s.cfg.mask) (a : Agent)
    (w : OpWord) : ∃ t, issueWord a w s = .next t := by
  cases hd : decodeWord w with
  | error r => exact ⟨_, by rw [issueWord, hd]⟩
  | ok i =>
    obtain ⟨w', hw⟩ := decodeWord_operation hd
    rw [issueWord_decoded hd]
    exact exec_operation_completes (u := { s with issuer := a }) hw hrd hwr

theorem framerStep_receive_completes {s : State} (h : Inv s) (hr : s.fsm.receives = true) :
    ∃ t, framerStep s = .next t := by
  cases hx : rxTake s with
  | hold => exact ⟨s, framerStep_hold hr hx⟩
  | stop f => exact absurd h.rdRange (rxTake_stop hx)
  | linkErr k t => exact ⟨_, framerStep_linkErr hr hx⟩
  | byte b t =>
    obtain ⟨u, hu, -⟩ := framerStep_byte h hr hx
    exact ⟨u, hu⟩

theorem framerStep_completes {s : State} (h : Inv s) : ∃ t, framerStep s = .next t := by
  cases hf : s.fsm with
  | idle => exact ⟨s, by simp only [framerStep, hf]⟩
  | qcTx k =>
    simp only [framerStep, hf, exec, execGetImageCount_sends hf (countRow k)]
    exact ⟨_, rfl⟩
  | rtTx k =>
    obtain ⟨i, hi⟩ := h.idx_of_rtTx hf
    obtain ⟨b, n, row, -⟩ := imageRow i k
    simp only [framerStep, hf, exec, indexOperand_written hi, execGetImage_sends hf row]
    exact ⟨_, rfl⟩
  | rtRdy m =>
    simp only [framerStep, hf, exec, execReady_sends hf]
    exact ⟨_, rfl⟩
  | rtDisp => exact ⟨_, framerStep_rtDisp hf⟩
  | rtWait => exact ⟨_, framerStep_rtWait hf⟩
  | qcRx | rtHdr | rtPay => exact framerStep_receive_completes h (by rw [hf]; rfl)

/-- From a state that meets the invariant only a step of the agent that does not exist has no next state. -/
theorem agentStep_completes {s : State} (h : Inv s) {e : AgentStep}
    (hex : ¬(s.cfg.rxPath = .viaRb ∧ ∃ w, e = .issue .cons w)) : ∃ t, agentStep e s = .next t := by
  cases e with
  | issue a w =>
    have hcons : ¬(a = .cons ∧ s.cfg.rxPath = .viaRb) := by
      rintro ⟨rfl, hv⟩
      exact hex ⟨hv, w, rfl⟩
    rw [agentStep, if_neg hcons]
    exact issueWord_completes h.rdRange h.wrRange a w
  | framer => exact framerStep_completes h
  | hostSend | hostSink | hostDrop | dispAnswer => exact ⟨_, rfl⟩

theorem agentStep_noSuchAgent {s : State} (hv : s.cfg.rxPath = .viaRb) (w : OpWord) :
    agentStep (.issue .cons w) s = .refused .noSuchAgent :=
  if_pos ⟨rfl, hv⟩

/-- Scheduling a step leaves the block's parameters. -/
theorem nextAgentStep_cfg (s : State) : (nextAgentStep s).2.cfg = s.cfg := by
  unfold nextAgentStep
  split <;> rfl

/-- Settles O53, by whether the scheduled step is one of CONS when VIA_RB. -/
theorem nothingStopsTheBlock : Obligations.NothingStopsTheBlock := by
  unfold Obligations.NothingStopsTheBlock
  intro s h
  have hstep : step s = agentStep (nextAgentStep s).1 (nextAgentStep s).2 := if_pos h.params
  rw [hstep, ← nextAgentStep_cfg s]
  by_cases hcons : (nextAgentStep s).2.cfg.rxPath = .viaRb ∧ ∃ w, (nextAgentStep s).1 = .issue .cons w
  · obtain ⟨hv, w, he⟩ := hcons
    exact .inr ⟨hv, he ▸ agentStep_noSuchAgent hv w, w, he⟩
  · exact .inl (agentStep_completes h.keepsSchedule hcons)

end Sys2Proof.Machine
end
